-- ==== Sys2Proof/Word.lean ====
section
/-! DEFINITION. The words of the CHIP-8 core and their plainest arithmetic (spec/00_scope.md R9, R10). -/

namespace Sys2Proof

/-- A general register, a memory byte or a timer: 8 bits, unsigned. -/
abbrev Byte := BitVec 8

/-- An instruction word, `I`, `pc` or a stack entry: 16 bits, unsigned. -/
abbrev Word := BitVec 16

/-- A 4-bit field of an instruction word (a register index, a sprite height), a key index or `SP`. -/
abbrev Nibble := BitVec 4

/-- The 12-bit address field `nnn`. -/
abbrev Addr12 := BitVec 12

/-- One row of the display, 64 one-bit pixels: bit `c` is the pixel of column `c`. -/
abbrev PixelRow := BitVec 64

/-- A condition used as a register value: 1 when it holds and 0 when it does not (R10). -/
def byteOfBool (b : Bool) : Byte := if b then 1#8 else 0#8

end Sys2Proof
end

