-- ==== Sys2Proof/Config.lean ====
section
/-! DEFINITION. What is fixed for the machine (spec/00_scope.md R7) and its one free value, the random byte (R8, R15). -/

namespace Sys2Proof

/-- MEM_SIZE: memory is the addresses 0 to 4095 (R7). -/
def Config.memSize : Nat := 4096

/-- PROGRAM_BASE: the entry point and the usual load address of a program image (R7). -/
def Config.programBase : Word := 0x200#16

/-- The reserved region is the addresses below 0x200, and bounds FONT_IMAGE (R7, R8). -/
def Config.reservedSize : Nat := 0x200

/-- FREE VALUE (log entry 1). The byte that the `n`-th random draw supplies from outside the engine, under no law
(R15, D14): it has no body, so a statement that holds, holds whatever the draws are. -/
opaque Config.randomByte : Nat → Byte

end Sys2Proof
end

