-- ==== Sys2Proof/Syntax.lean ====
section
/-! DEFINITION. The instructions: one constructor per row of spec/opcode_table.json (spec/30_encoding.md R75), with the
operands of its format (R71 to R73). -/

namespace Sys2Proof

/-- The 34 instructions. Operands are the fields of the instruction word: `x`, `y` index general registers, `kk`, `n`,
`nnn` are unsigned immediates. The `y` of the two shifts is in the word and is ignored (R78). -/
inductive Instr where
  | clearScreen
  | ret
  | jump (nnn : Addr12)
  | call (nnn : Addr12)
  | skipIfEqualByte (x : Nibble) (kk : Byte)
  | skipIfNotEqualByte (x : Nibble) (kk : Byte)
  | skipIfEqualReg (x y : Nibble)
  | loadByte (x : Nibble) (kk : Byte)
  | addByte (x : Nibble) (kk : Byte)
  | loadReg (x y : Nibble)
  | orReg (x y : Nibble)
  | andReg (x y : Nibble)
  | xorReg (x y : Nibble)
  | addReg (x y : Nibble)
  | subReg (x y : Nibble)
  | shiftRight (x y : Nibble)
  | subnReg (x y : Nibble)
  | shiftLeft (x y : Nibble)
  | skipIfNotEqualReg (x y : Nibble)
  | loadI (nnn : Addr12)
  | jumpPlusV0 (nnn : Addr12)
  | randomAndMask (x : Nibble) (kk : Byte)
  | drawSprite (x y n : Nibble)
  | skipIfKeyPressed (x : Nibble)
  | skipIfKeyNotPressed (x : Nibble)
  | loadVxFromDelayTimer (x : Nibble)
  | loadVxBlockingOnKey (x : Nibble)
  | loadDelayTimer (x : Nibble)
  | loadSoundTimer (x : Nibble)
  | addToI (x : Nibble)
  | loadFontAddress (x : Nibble)
  | storeBcd (x : Nibble)
  | storeBlock (x : Nibble)
  | loadBlock (x : Nibble)
  deriving DecidableEq, Repr

end Sys2Proof
end

