-- ==== Sys2Proof/WellFormed.lean ====
section
/-! DEFINITION. Which instructions and which parameters and inputs are well formed. -/

namespace Sys2Proof

/-- Every instruction is well formed: the bound of each operand (spec/30_encoding.md R71, R73) is the width of its type,
so an operand out of range cannot be written, and no instruction constrains one operand by another. -/
def Instr.wellFormed : Instr → Bool
  | .clearScreen | .ret | .jump _ | .call _ | .skipIfEqualByte _ _ | .skipIfNotEqualByte _ _ | .skipIfEqualReg _ _
  | .loadByte _ _ | .addByte _ _ | .loadReg _ _ | .orReg _ _ | .andReg _ _ | .xorReg _ _ | .addReg _ _ | .subReg _ _
  | .shiftRight _ _ | .subnReg _ _ | .shiftLeft _ _ | .skipIfNotEqualReg _ _ | .loadI _ | .jumpPlusV0 _
  | .randomAndMask _ _ | .drawSprite _ _ _ | .skipIfKeyPressed _ | .skipIfKeyNotPressed _ | .loadVxFromDelayTimer _
  | .loadVxBlockingOnKey _ | .loadDelayTimer _ | .loadSoundTimer _ | .addToI _ | .loadFontAddress _ | .storeBcd _
  | .storeBlock _ | .loadBlock _ => true

/-- The constraint on the parameter FONT_IMAGE: at most 512 bytes (spec/70_reset_and_hazards.md R261). -/
def fontImageFits (image : List Byte) : Bool := decide (image.length ≤ Config.reservedSize)

/-- The check of `load-image` (spec/49_host_operations.md R202): the image ends at or below address 4096. -/
def imageFits (bytes : List Byte) (base : Nat) : Bool := decide (base + bytes.length ≤ Config.memSize)

end Sys2Proof
end

