-- ==== Sys2Proof/Decode.lean ====
section
/-! DEFINITION. The decoder and the encoder (spec/30_encoding.md R70 to R78), and the opcode table as rows of mask and
pattern. The numerals are the spec's, from general knowledge but for two rows (R75, log entry 5). -/

namespace Sys2Proof

/-- `class = op[15:12]` (R71). -/
def opClass (w : Word) : Nibble := w.extractLsb' 12 4

/-- `x = op[11:8]` (R71). -/
def opX (w : Word) : Nibble := w.extractLsb' 8 4

/-- `y = op[7:4]` (R71). -/
def opY (w : Word) : Nibble := w.extractLsb' 4 4

/-- `n = op[3:0]` (R71). -/
def opN (w : Word) : Nibble := w.extractLsb' 0 4

/-- `kk = op[7:0]` (R71). -/
def opKK (w : Word) : Byte := w.extractLsb' 0 8

/-- `nnn = op[11:0]` (R71). -/
def opNNN (w : Word) : Addr12 := w.extractLsb' 0 12

/-- Class 0, format OP: all 16 bits are fixed (R75, R77). -/
def decodeClass0 (nnn : Addr12) : Option Instr :=
  match nnn.toNat with
  | 0x0E0 => some .clearScreen
  | 0x0EE => some .ret
  | _ => none

/-- Class 8, format XY: `n` is the sub-function (R75, R77). -/
def decodeClass8 (x y n : Nibble) : Option Instr :=
  match n.toNat with
  | 0x0 => some (.loadReg x y)
  | 0x1 => some (.orReg x y)
  | 0x2 => some (.andReg x y)
  | 0x3 => some (.xorReg x y)
  | 0x4 => some (.addReg x y)
  | 0x5 => some (.subReg x y)
  | 0x6 => some (.shiftRight x y)
  | 0x7 => some (.subnReg x y)
  | 0xE => some (.shiftLeft x y)
  | _ => none

/-- Class E, format X: `kk` is the sub-function (R75, R77). -/
def decodeClassE (x : Nibble) (kk : Byte) : Option Instr :=
  match kk.toNat with
  | 0x9E => some (.skipIfKeyPressed x)
  | 0xA1 => some (.skipIfKeyNotPressed x)
  | _ => none

/-- Class F, format X: `kk` is the sub-function (R75, R77). -/
def decodeClassF (x : Nibble) (kk : Byte) : Option Instr :=
  match kk.toNat with
  | 0x07 => some (.loadVxFromDelayTimer x)
  | 0x0A => some (.loadVxBlockingOnKey x)
  | 0x15 => some (.loadDelayTimer x)
  | 0x18 => some (.loadSoundTimer x)
  | 0x1E => some (.addToI x)
  | 0x29 => some (.loadFontAddress x)
  | 0x33 => some (.storeBcd x)
  | 0x55 => some (.storeBlock x)
  | 0x65 => some (.loadBlock x)
  | _ => none

/-- The instruction of a word, or none where the word is an unknown opcode: dispatch by the class, then by the
sub-function of the classes that have one (R74, R75, R76). -/
def decodeWord (w : Word) : Option Instr :=
  match (opClass w).toNat with
  | 0x0 => decodeClass0 (opNNN w)
  | 0x1 => some (.jump (opNNN w))
  | 0x2 => some (.call (opNNN w))
  | 0x3 => some (.skipIfEqualByte (opX w) (opKK w))
  | 0x4 => some (.skipIfNotEqualByte (opX w) (opKK w))
  | 0x5 => if opN w = 0x0#4 then some (.skipIfEqualReg (opX w) (opY w)) else none
  | 0x6 => some (.loadByte (opX w) (opKK w))
  | 0x7 => some (.addByte (opX w) (opKK w))
  | 0x8 => decodeClass8 (opX w) (opY w) (opN w)
  | 0x9 => if opN w = 0x0#4 then some (.skipIfNotEqualReg (opX w) (opY w)) else none
  | 0xA => some (.loadI (opNNN w))
  | 0xB => some (.jumpPlusV0 (opNNN w))
  | 0xC => some (.randomAndMask (opX w) (opKK w))
  | 0xD => some (.drawSprite (opX w) (opY w) (opN w))
  | 0xE => decodeClassE (opX w) (opKK w)
  | 0xF => decodeClassF (opX w) (opKK w)
  | _ => none

/-- Two bytes composed big-endian: the byte at the lower address is bits 15 to 8 (spec/20_memory.md R53, R54). -/
def wordOfBytes (high low : Byte) : Word := high ++ low

/-- The two bytes of a word in the order memory holds them (R54). -/
def bytesOfWord (w : Word) : List Byte := [w.extractLsb' 8 8, w.extractLsb' 0 8]

/-- Why bytes decode to no instruction. -/
inductive DecodeError where
  /-- Fewer than two bytes: there is one instruction length (R70). -/
  | truncated
  /-- The word matches no row of the opcode table (R76). -/
  | unknownOpcode (w : Word)
  deriving DecidableEq, Repr

/-- The instruction at the head of a byte string and the bytes after it; total, rejecting by name. -/
def decodeBytes : List Byte → Except DecodeError (Instr × List Byte)
  | high :: low :: rest =>
    match decodeWord (wordOfBytes high low) with
    | some i => .ok (i, rest)
    | none => .error (.unknownOpcode (wordOfBytes high low))
  | _ => .error .truncated

/-- The instruction word whose `nbits` low bits, numbered as the opcode table numbers them, are those of `w`. -/
def tableWord (nbits w : Nat) : Word := BitVec.ofNat 16 (w % 2 ^ nbits)

/-- What the decoder reads from an instruction of the opcode table laid out as memory holds it. -/
def decodeTableWord (nbits w : Nat) : Option Instr :=
  match decodeBytes (bytesOfWord (tableWord nbits w)) with
  | .ok (i, _) => some i
  | .error _ => none

/-- Format NNN: `cccc aaaa aaaa aaaa` (R72). -/
def wordNNN (c : Nibble) (nnn : Addr12) : Word := c ++ nnn

/-- Format XKK: `cccc xxxx kkkk kkkk`, and format X with a sub-function in place of `kk` (R72). -/
def wordXKK (c x : Nibble) (kk : Byte) : Word := c ++ x ++ kk

/-- Format XYN: `cccc xxxx yyyy nnnn`, and format XY with a sub-function in place of `n` (R72). -/
def wordXYN (c x y n : Nibble) : Word := c ++ x ++ y ++ n

/-- The word of an instruction, from the table of R75. -/
def encode : Instr → Word
  | .clearScreen => 0x00E0#16
  | .ret => 0x00EE#16
  | .jump nnn => wordNNN 0x1#4 nnn
  | .call nnn => wordNNN 0x2#4 nnn
  | .skipIfEqualByte x kk => wordXKK 0x3#4 x kk
  | .skipIfNotEqualByte x kk => wordXKK 0x4#4 x kk
  | .skipIfEqualReg x y => wordXYN 0x5#4 x y 0x0#4
  | .loadByte x kk => wordXKK 0x6#4 x kk
  | .addByte x kk => wordXKK 0x7#4 x kk
  | .loadReg x y => wordXYN 0x8#4 x y 0x0#4
  | .orReg x y => wordXYN 0x8#4 x y 0x1#4
  | .andReg x y => wordXYN 0x8#4 x y 0x2#4
  | .xorReg x y => wordXYN 0x8#4 x y 0x3#4
  | .addReg x y => wordXYN 0x8#4 x y 0x4#4
  | .subReg x y => wordXYN 0x8#4 x y 0x5#4
  | .shiftRight x y => wordXYN 0x8#4 x y 0x6#4
  | .subnReg x y => wordXYN 0x8#4 x y 0x7#4
  | .shiftLeft x y => wordXYN 0x8#4 x y 0xE#4
  | .skipIfNotEqualReg x y => wordXYN 0x9#4 x y 0x0#4
  | .loadI nnn => wordNNN 0xA#4 nnn
  | .jumpPlusV0 nnn => wordNNN 0xB#4 nnn
  | .randomAndMask x kk => wordXKK 0xC#4 x kk
  | .drawSprite x y n => wordXYN 0xD#4 x y n
  | .skipIfKeyPressed x => wordXKK 0xE#4 x 0x9E#8
  | .skipIfKeyNotPressed x => wordXKK 0xE#4 x 0xA1#8
  | .loadVxFromDelayTimer x => wordXKK 0xF#4 x 0x07#8
  | .loadVxBlockingOnKey x => wordXKK 0xF#4 x 0x0A#8
  | .loadDelayTimer x => wordXKK 0xF#4 x 0x15#8
  | .loadSoundTimer x => wordXKK 0xF#4 x 0x18#8
  | .addToI x => wordXKK 0xF#4 x 0x1E#8
  | .loadFontAddress x => wordXKK 0xF#4 x 0x29#8
  | .storeBcd x => wordXKK 0xF#4 x 0x33#8
  | .storeBlock x => wordXKK 0xF#4 x 0x55#8
  | .loadBlock x => wordXKK 0xF#4 x 0x65#8

/-- One row of the opcode map: a word `op` selects it when `op and mask = pattern` (R74). -/
structure OpcodeRow where
  mask : Word
  pattern : Word
  mnemonic : String
  deriving DecidableEq, Repr

/-- Whether a word selects a row (R74). -/
def OpcodeRow.selects (r : OpcodeRow) (w : Word) : Bool := (w &&& r.mask) = r.pattern

/-- The rows of R75 that fix a class alone or all 16 bits. -/
def opcodeRowsByClass : List OpcodeRow :=
  [⟨0xFFFF#16, 0x00E0#16, "clear-screen"⟩, ⟨0xFFFF#16, 0x00EE#16, "return"⟩, ⟨0xF000#16, 0x1000#16, "jump"⟩,
   ⟨0xF000#16, 0x2000#16, "call"⟩, ⟨0xF000#16, 0x3000#16, "skip-if-equal-byte"⟩,
   ⟨0xF000#16, 0x4000#16, "skip-if-not-equal-byte"⟩, ⟨0xF00F#16, 0x5000#16, "skip-if-equal-reg"⟩,
   ⟨0xF000#16, 0x6000#16, "load-byte"⟩, ⟨0xF000#16, 0x7000#16, "add-byte"⟩,
   ⟨0xF00F#16, 0x9000#16, "skip-if-not-equal-reg"⟩, ⟨0xF000#16, 0xA000#16, "load-i"⟩,
   ⟨0xF000#16, 0xB000#16, "jump-plus-v0"⟩, ⟨0xF000#16, 0xC000#16, "random-and-mask"⟩,
   ⟨0xF000#16, 0xD000#16, "draw-sprite"⟩]

/-- The rows of R75 in class 8. -/
def opcodeRows8 : List OpcodeRow :=
  [⟨0xF00F#16, 0x8000#16, "load-reg"⟩, ⟨0xF00F#16, 0x8001#16, "or"⟩, ⟨0xF00F#16, 0x8002#16, "and"⟩,
   ⟨0xF00F#16, 0x8003#16, "xor"⟩, ⟨0xF00F#16, 0x8004#16, "add-reg"⟩, ⟨0xF00F#16, 0x8005#16, "sub-reg"⟩,
   ⟨0xF00F#16, 0x8006#16, "shift-right"⟩, ⟨0xF00F#16, 0x8007#16, "subn-reg"⟩, ⟨0xF00F#16, 0x800E#16, "shift-left"⟩]

/-- The rows of R75 in classes E and F. -/
def opcodeRowsEF : List OpcodeRow :=
  [⟨0xF0FF#16, 0xE09E#16, "skip-if-key-pressed"⟩, ⟨0xF0FF#16, 0xE0A1#16, "skip-if-key-not-pressed"⟩,
   ⟨0xF0FF#16, 0xF007#16, "load-vx-from-delay-timer"⟩, ⟨0xF0FF#16, 0xF00A#16, "load-vx-blocking-on-key"⟩,
   ⟨0xF0FF#16, 0xF015#16, "load-delay-timer"⟩, ⟨0xF0FF#16, 0xF018#16, "load-sound-timer"⟩,
   ⟨0xF0FF#16, 0xF01E#16, "add-to-i"⟩, ⟨0xF0FF#16, 0xF029#16, "load-font-address"⟩,
   ⟨0xF0FF#16, 0xF033#16, "store-bcd"⟩, ⟨0xF0FF#16, 0xF055#16, "store-block"⟩, ⟨0xF0FF#16, 0xF065#16, "load-block"⟩]

/-- The opcode map of R75: 34 rows. -/
def opcodeTable : List OpcodeRow := opcodeRowsByClass ++ opcodeRows8 ++ opcodeRowsEF

/-- The name of an instruction in the opcode map (R75, R80). -/
def Instr.mnemonic : Instr → String
  | .clearScreen => "clear-screen"
  | .ret => "return"
  | .jump _ => "jump"
  | .call _ => "call"
  | .skipIfEqualByte _ _ => "skip-if-equal-byte"
  | .skipIfNotEqualByte _ _ => "skip-if-not-equal-byte"
  | .skipIfEqualReg _ _ => "skip-if-equal-reg"
  | .loadByte _ _ => "load-byte"
  | .addByte _ _ => "add-byte"
  | .loadReg _ _ => "load-reg"
  | .orReg _ _ => "or"
  | .andReg _ _ => "and"
  | .xorReg _ _ => "xor"
  | .addReg _ _ => "add-reg"
  | .subReg _ _ => "sub-reg"
  | .shiftRight _ _ => "shift-right"
  | .subnReg _ _ => "subn-reg"
  | .shiftLeft _ _ => "shift-left"
  | .skipIfNotEqualReg _ _ => "skip-if-not-equal-reg"
  | .loadI _ => "load-i"
  | .jumpPlusV0 _ => "jump-plus-v0"
  | .randomAndMask _ _ => "random-and-mask"
  | .drawSprite _ _ _ => "draw-sprite"
  | .skipIfKeyPressed _ => "skip-if-key-pressed"
  | .skipIfKeyNotPressed _ => "skip-if-key-not-pressed"
  | .loadVxFromDelayTimer _ => "load-vx-from-delay-timer"
  | .loadVxBlockingOnKey _ => "load-vx-blocking-on-key"
  | .loadDelayTimer _ => "load-delay-timer"
  | .loadSoundTimer _ => "load-sound-timer"
  | .addToI _ => "add-to-i"
  | .loadFontAddress _ => "load-font-address"
  | .storeBcd _ => "store-bcd"
  | .storeBlock _ => "store-block"
  | .loadBlock _ => "load-block"

end Sys2Proof
end

