-- ==== Sys2Proof/Machine/Font.lean ====
section
/-! DEFINITION. The font parameters (spec/00_scope.md R8): the default FONT_IMAGE and where a digit's glyph stands. -/

namespace Sys2Proof.Machine

/-- The default FONT_IMAGE: the glyphs of the digits 0 to F, five bytes each, as the table of spec/10_state.md R41 gives
them (UNVERIFIED, log entry 2). -/
def defaultFontImage : List Byte :=
  [0xF0#8, 0x90#8, 0x90#8, 0x90#8, 0xF0#8] ++ [0x20#8, 0x60#8, 0x20#8, 0x20#8, 0x70#8] ++
  [0xF0#8, 0x10#8, 0xF0#8, 0x80#8, 0xF0#8] ++ [0xF0#8, 0x10#8, 0xF0#8, 0x10#8, 0xF0#8] ++
  [0x90#8, 0x90#8, 0xF0#8, 0x10#8, 0x10#8] ++ [0xF0#8, 0x80#8, 0xF0#8, 0x10#8, 0xF0#8] ++
  [0xF0#8, 0x80#8, 0xF0#8, 0x90#8, 0xF0#8] ++ [0xF0#8, 0x10#8, 0x20#8, 0x40#8, 0x40#8] ++
  [0xF0#8, 0x90#8, 0xF0#8, 0x90#8, 0xF0#8] ++ [0xF0#8, 0x90#8, 0xF0#8, 0x10#8, 0xF0#8] ++
  [0xF0#8, 0x90#8, 0xF0#8, 0x90#8, 0x90#8] ++ [0xE0#8, 0x90#8, 0xE0#8, 0x90#8, 0xE0#8] ++
  [0xF0#8, 0x80#8, 0x80#8, 0x80#8, 0xF0#8] ++ [0xE0#8, 0x90#8, 0x90#8, 0x90#8, 0xE0#8] ++
  [0xF0#8, 0x80#8, 0xF0#8, 0x80#8, 0xF0#8] ++ [0xF0#8, 0x80#8, 0xF0#8, 0x80#8, 0x80#8]

/-- FONT_GLYPH_BASE (R8): the address of the glyph of digit 0 (UNVERIFIED, log entry 3). -/
def fontGlyphBase : Nat := 0x000

/-- FONT_GLYPH_STRIDE (R8): bytes from one glyph to the next (UNVERIFIED, log entry 3). -/
def fontGlyphStride : Nat := 5

/-- FONT_GLYPH_BASE + FONT_GLYPH_STRIDE * digit, the full 8-bit digit unmasked (spec/48_index_memory.md R191). -/
def glyphAddress (digit : Byte) : Word := BitVec.ofNat 16 (fontGlyphBase + fontGlyphStride * digit.toNat)

end Sys2Proof.Machine
end

