-- ==== Sys2Proof/Machine/State.lean ====
section
/-! DEFINITION. The state of the machine (spec/10_state.md), the reasons a step stops, and the state after reset. -/

namespace Sys2Proof.Machine

/-- All the state the spec gives the machine (spec/10_state.md R20 to R35), and two fields of the model's own:
`draws` (log entry 1) and `fontImage` (log entry 2). -/
structure State where
  /-- `V[0]` to `V[15]`; `V[15]` is VF, the flag latch (R20, R21). -/
  v : Vector Byte 16
  /-- `I`, the address register (R28). -/
  i : Word
  /-- `pc` (R25). -/
  pc : Word
  /-- `SP` (R29). -/
  sp : Nibble
  /-- `stack[0]` to `stack[15]` (R30). -/
  stack : Vector Word 16
  /-- `DT`, the delay timer (R31). -/
  dt : Byte
  /-- `ST`, the sound timer (R31). -/
  st : Byte
  /-- `disp`: bit `c` of row `r` is `disp[r][c]` (R33). -/
  disp : Vector PixelRow 32
  /-- `Mem` (R35): the cells that differ from what an unlisted address reads as, by rising address. -/
  mem : List Host.Cell
  /-- `Key[0]` to `Key[15]` (R34); true is pressed. -/
  keys : Vector Bool 16
  /-- MODEL'S OWN: how many random draws have been consumed; it selects the next free value (log entry 1). -/
  draws : Nat
  /-- MODEL'S OWN: the parameter FONT_IMAGE (spec/00_scope.md R8), which no operation changes (log entry 2). -/
  fontImage : List Byte
  deriving DecidableEq, Repr

/-- The error kinds of `step` (spec/60_exceptions.md R221), with the information each records. A fault changes no state
(R229). All are safe: the spec names the fault. -/
inductive Fault where
  /-- The fetched word matches no row of the opcode table (R222). Raised at decode. Safe: the spec names it. -/
  | unknownOpcode (op : Word)
  /-- `call` with `SP = 15`; records `pc` (R223). Safe: the spec names it. -/
  | stackOverflow (pc : Word)
  /-- `return` with `SP = 0`; records `pc` (R224). Safe: the spec names it. -/
  | stackUnderflow (pc : Word)
  /-- `draw-sprite` with a target pixel outside the grid; records `ox`, `oy`, `n` (R225). Safe: the spec names it. -/
  | displayOutOfBounds (ox oy n : Nat)
  /-- An access at address 4096 or more, by fetch, `draw-sprite`, `store-bcd`, `store-block` or `load-block`; records the
  lowest offending address (R226). Safe: the spec names it. -/
  | memoryOutOfBounds (addr : Nat)
  /-- A key skip with `V[x] > 15`; records `V[x]` (R227). Safe: the spec names it. -/
  | keyIndexOutOfRange (k : Byte)
  deriving DecidableEq, Repr

/-- The reasons an instruction has no meaning. -/
inductive Refusal where
  /-- The instruction has no meaning yet. Raised by an arm of `exec` alone, and by none of them now: every instruction has
  its meaning. Safe: a refused instruction takes no step. -/
  | notModelled (mnemonic : String)
  deriving DecidableEq, Repr

/-- The machine right after construction, which performs `reset` (spec/10_state.md R39, R40; spec/70_reset_and_hazards.md
R260): memory lists nothing, so it reads as FONT_IMAGE from address 0 and 0 elsewhere. -/
def State.reset : State where
  v := Vector.replicate 16 0#8
  i := 0#16
  pc := Config.programBase
  sp := 0#4
  stack := Vector.replicate 16 0#16
  dt := 0#8
  st := 0#8
  disp := Vector.replicate 32 0#64
  mem := []
  keys := Vector.replicate 16 false
  draws := 0
  fontImage := defaultFontImage

end Sys2Proof.Machine
end

