-- ==== Sys2Proof/Machine/Ops.lean ====
section
/-! DEFINITION. The named operations over memory and registers, the fetch, and raising a fault. The machine takes no
exception: a fault is an outcome that transfers control nowhere (spec/60_exceptions.md R231), so `raise` is the one shared
operation, and there is no return from one (R233). -/

namespace Sys2Proof.Machine

/-- What a step or an instruction answers. -/
abbrev Result := Host.Outcome State Fault Refusal

/-- `raise <Kind>(info)`: the step ends at once and writes nothing (spec/00_scope.md R14). -/
def raise (f : Fault) : Result := .fault f

/-- What an address that memory does not list reads as: its reset contents, FONT_IMAGE from address 0 and 0 elsewhere
(spec/10_state.md R39). -/
def memDefault (image : List Byte) (a : Nat) : Byte := if a < Config.reservedSize then image.getD a 0#8 else 0#8

/-- The byte at an address: the first listed cell, or what an unlisted address reads as. -/
def memGet (image : List Byte) : List Host.Cell → Nat → Byte
  | [], a => memDefault image a
  | (b, v) :: m, a => if b = a then v else memGet image m a

/-- A cell put in its place by address, in a list that has none at that address. -/
def memInsert (a : Nat) (v : Byte) : List Host.Cell → List Host.Cell
  | [] => [(a, v)]
  | (b, w) :: m => if a < b then (a, v) :: (b, w) :: m else (b, w) :: memInsert a v m

/-- The memory with one byte written, in canonical form: writing what an unlisted address reads as lists nothing. -/
def memSet (image : List Byte) (m : List Host.Cell) (a : Nat) (v : Byte) : List Host.Cell :=
  if v = memDefault image a then m.filter (fun cell => cell.1 ≠ a)
  else memInsert a v (m.filter (fun cell => cell.1 ≠ a))

/-- The memory with bytes written at consecutive addresses. -/
def memSetBytes (image : List Byte) : List Host.Cell → Nat → List Byte → List Host.Cell
  | m, _, [] => m
  | m, a, b :: bs => memSetBytes image (memSet image m a b) (a + 1) bs

/-- The canonical form: addresses strictly rise. -/
def memRising (m : List Host.Cell) : Bool := decide (m.Pairwise (fun p q => p.1 < q.1))

/-- The canonical form: every listed address exists, and none holds what an unlisted address reads as. -/
def memListed (image : List Byte) (m : List Host.Cell) : Bool :=
  m.all (fun cell => decide (cell.1 < Config.memSize) && decide (cell.2 ≠ memDefault image cell.1))

/-- The canonical form of memory, under which equal memories are equal lists. -/
def Memory.wf (image : List Byte) (m : List Host.Cell) : Bool := memRising m && memListed image m

/-- `Mem[a]`, without a bounds check. -/
def State.byteAt (s : State) (a : Nat) : Byte := memGet s.fontImage s.mem a

/-- `Mem[a] <- bytes[0]`, `Mem[a + 1] <- bytes[1]` and so on, without a bounds check. -/
def State.writeBytes (s : State) (a : Nat) (bytes : List Byte) : State :=
  { s with mem := memSetBytes s.fontImage s.mem a bytes }

/-- `MemRead(a, 1)` (spec/20_memory.md R51). -/
def State.memRead (s : State) (a : Nat) : Except Fault Byte :=
  if a < Config.memSize then .ok (s.byteAt a) else .error (.memoryOutOfBounds a)

/-- `MemWrite(a, 1, v)` (R52). -/
def State.memWrite (s : State) (a : Nat) (v : Byte) : Except Fault State :=
  if a < Config.memSize then .ok (s.writeBytes a [v]) else .error (.memoryOutOfBounds a)

/-- Whether an access of `len` bytes at `a` stays inside memory; an access of no bytes does (spec/45_draw.md R163). -/
def spanFits (a len : Nat) : Bool := decide (len = 0 ∨ a + len ≤ Config.memSize)

/-- The fault of an access that does not fit: it records the lowest offending address, `max(a, 4096)` (R162, R192). -/
def spanFault (a : Nat) : Fault := .memoryOutOfBounds (max a Config.memSize)

/-- `len` bytes from address `a`, every address checked before the first is read; addresses do not wrap
(spec/20_memory.md R67). -/
def State.readSpan (s : State) (a len : Nat) : Except Fault (List Byte) :=
  if spanFits a len then .ok ((List.range len).map (fun k => s.byteAt (a + k))) else .error (spanFault a)

/-- Bytes written from address `a`, every address checked before the first is written (R52). -/
def State.writeSpan (s : State) (a : Nat) (bytes : List Byte) : Except Fault State :=
  if spanFits a bytes.length then .ok (s.writeBytes a bytes) else .error (spanFault a)

/-- Instruction fetch, `MemRead(pc, 2)`: two byte reads, big-endian, no alignment (R53, R54, R55). -/
def State.fetch (s : State) : Except Fault Word :=
  match s.memRead s.pc.toNat, s.memRead (s.pc.toNat + 1) with
  | .ok high, .ok low => .ok (wordOfBytes high low)
  | .error f, _ => .error f
  | .ok _, .error f => .error f

/-- `V[x]` (spec/10_state.md R20). -/
def State.reg (s : State) (x : Nibble) : Byte := s.v[x.toNat]'x.isLt

/-- `V[x] <- b` (R20). -/
def State.setReg (s : State) (x : Nibble) (b : Byte) : State := { s with v := s.v.set x.toNat b x.isLt }

/-- The number of VF, the flag latch (R21). -/
abbrev vf : Nibble := 0xF#4

/-- `V[x] <- result`, and then VF written last (spec/00_scope.md R16, spec/43_alu.md R140). -/
def State.setRegFlag (s : State) (x : Nibble) (result flag : Byte) : State := (s.setReg x result).setReg vf flag

/-- `pc <- target`. -/
def State.setPc (s : State) (target : Word) : State := { s with pc := target }

/-- `pc <- trunc16(pc + 2)`: to the next instruction (spec/10_state.md R26). -/
def State.advance (s : State) : State := s.setPc (s.pc + 2#16)

/-- A skip: `pc <- trunc16(pc + 4)` where the condition holds and `trunc16(pc + 2)` where it does not (R26). -/
def State.skipIf (s : State) (condition : Bool) : State := if condition then s.setPc (s.pc + 4#16) else s.advance

/-- `I <- a` (R28). -/
def State.setI (s : State) (a : Word) : State := { s with i := a }

/-- `DT <- b` (R31). -/
def State.setDt (s : State) (b : Byte) : State := { s with dt := b }

/-- `ST <- b` (R31). -/
def State.setSt (s : State) (b : Byte) : State := { s with st := b }

/-- `SP <- k` (R29). -/
def State.setSp (s : State) (k : Nibble) : State := { s with sp := k }

/-- `stack[k]` (R30). -/
def State.stackAt (s : State) (k : Nibble) : Word := s.stack[k.toNat]'k.isLt

/-- `stack[k] <- a` (R30). -/
def State.setStackAt (s : State) (k : Nibble) (a : Word) : State := { s with stack := s.stack.set k.toNat a k.isLt }

/-- The display replaced as a whole. -/
def State.setDisp (s : State) (d : Vector PixelRow 32) : State := { s with disp := d }

/-- `Key[k]` (R34). -/
def State.keyAt (s : State) (k : Nibble) : Bool := s.keys[k.toNat]'k.isLt

/-- `Key[k] <- pressed` (spec/49_host_operations.md R205). -/
def State.setKeyAt (s : State) (k : Nibble) (pressed : Bool) : State := { s with keys := s.keys.set k.toNat pressed k.isLt }

/-- `Draw8()`: the random byte this step is supplied with (spec/00_scope.md R15). -/
def State.draw8 (s : State) : Byte := Config.randomByte s.draws

/-- One random byte is consumed (R15). -/
def State.consumeDraw (s : State) : State := { s with draws := s.draws + 1 }

/-- Row `r` of the display; no pixel is set outside the 32 rows. -/
def rowAt (d : Vector PixelRow 32) (r : Nat) : PixelRow := d[r]?.getD 0#64

/-- `disp[r][c]` (spec/10_state.md R33). -/
def State.pixel (s : State) (r c : Nat) : Bool := (rowAt s.disp r).getLsbD c

end Sys2Proof.Machine
end

