-- ==== Sys2Proof/Machine/Flags.lean ====
section
/-! DEFINITION. Every value VF takes as a flag (spec/10_state.md R22), each from the operands before the instruction. -/

namespace Sys2Proof.Machine

/-- `add-reg`: 1 if `a + b >= 256`, else 0 (spec/43_alu.md R134). -/
def carryFlag (a b : Byte) : Byte := byteOfBool (decide (256 ≤ a.toNat + b.toNat))

/-- `sub-reg`: 1 if `a >= b`, no borrow, else 0 (R135). -/
def noBorrowFlag (a b : Byte) : Byte := byteOfBool (decide (b.toNat ≤ a.toNat))

/-- `subn-reg`: 1 if `b > a`, strictly, else 0 (R137). -/
def greaterFlag (a b : Byte) : Byte := byteOfBool (decide (a.toNat < b.toNat))

/-- `shift-right`: bit 0 before the shift (R136). -/
def lowBitFlag (a : Byte) : Byte := byteOfBool (a.getLsbD 0)

/-- `shift-left`: bit 7 before the shift (R138). -/
def highBitFlag (a : Byte) : Byte := byteOfBool (a.getLsbD 7)

/-- `draw-sprite`: 1 if a pixel went from set to unset, else 0 (spec/45_draw.md R164). -/
def collisionFlag (collision : Bool) : Byte := byteOfBool collision

end Sys2Proof.Machine
end

