-- ==== Sys2Proof/Machine/Operands.lean ====
section
/-! DEFINITION. The operand forms: memory at `I`, blocks of registers, decimal digits, sprites on the display, and keys. -/

namespace Sys2Proof.Machine

/-- The digits `store-bcd` writes: hundreds, tens, ones, each a whole byte (spec/48_index_memory.md R192). -/
def bcdDigits (v : Byte) : List Byte :=
  [BitVec.ofNat 8 (v.toNat / 100), BitVec.ofNat 8 (v.toNat / 10 % 10), BitVec.ofNat 8 (v.toNat % 10)]

/-- `V[0]` to `V[x]`, inclusive (R193, R195). -/
def State.regBlock (s : State) (x : Nibble) : List Byte := s.v.toList.take (x.toNat + 1)

/-- Registers from number `k` on loaded with bytes, one each; bytes for numbers above 15 are dropped. -/
def loadRegsFrom (v : Vector Byte 16) (k : Nat) : List Byte → Vector Byte 16
  | [] => v
  | b :: bs => loadRegsFrom (v.setIfInBounds k b) (k + 1) bs

/-- `V[0]`, `V[1]` and so on loaded with bytes, one each (R194). -/
def State.setRegBlock (s : State) (bytes : List Byte) : State := { s with v := loadRegsFrom s.v 0 bytes }

/-- The origin column of a sprite: `V[x] mod 64` (spec/45_draw.md R160, R161). -/
def originColumn (a : Byte) : Nat := a.toNat % 64

/-- The origin row of a sprite: `V[y] mod 32` (R160, R161). -/
def originRow (a : Byte) : Nat := a.toNat % 32

/-- Whether an 8 by `n` sprite at an origin stays on the grid; one with no rows does (R161, R163). -/
def spriteFits (ox oy n : Nat) : Bool := decide (n = 0 ∨ (ox + 7 ≤ 63 ∧ oy + n ≤ 32))

/-- One sprite byte as it falls on a display row: bit `7 - c` of the byte is column `ox + c` (R165, log entry 6). -/
def spriteRow (ox : Nat) (b : Byte) : PixelRow := b.reverse.setWidth 64 <<< ox

/-- The display with sprite rows XORed onto it, the first on row `oy` (R160). -/
def blit (ox : Nat) : Vector PixelRow 32 → Nat → List Byte → Vector PixelRow 32
  | d, _, [] => d
  | d, oy, b :: bs => blit ox (d.setIfInBounds oy (rowAt d oy ^^^ spriteRow ox b)) (oy + 1) bs

/-- Whether some sprite bit of 1 falls on a set pixel, over the whole sprite (R164). -/
def collides (d : Vector PixelRow 32) (ox : Nat) : Nat → List Byte → Bool
  | _, [] => false
  | oy, b :: bs => decide (rowAt d oy &&& spriteRow ox b ≠ 0#64) || collides d ox (oy + 1) bs

/-- The smallest pressed key, if any (spec/46_keypad.md R172, R173). -/
def State.lowestKey (s : State) : Option Nat := s.keys.toList.findIdx? id

end Sys2Proof.Machine
end

