-- ==== Sys2Proof/Machine/Alu.lean ====
section
/-! DEFINITION. The register-to-register instructions of class 8 (spec/43_alu.md). The first four write no flag; the
others write VF last, so that with `x = 15` the flag remains (R140). -/

namespace Sys2Proof.Machine

/-- `load-reg Vx, Vy` (R130). -/
def execLoadReg (x y : Nibble) (s : State) : Result := .next (s.setReg x (s.reg y)).advance

/-- `or Vx, Vy` (R131). -/
def execOr (x y : Nibble) (s : State) : Result := .next (s.setReg x (s.reg x ||| s.reg y)).advance

/-- `and Vx, Vy` (R132). -/
def execAnd (x y : Nibble) (s : State) : Result := .next (s.setReg x (s.reg x &&& s.reg y)).advance

/-- `xor Vx, Vy` (R133). -/
def execXor (x y : Nibble) (s : State) : Result := .next (s.setReg x (s.reg x ^^^ s.reg y)).advance

/-- `add-reg Vx, Vy` (R134): the sum modulo 256; VF is the carry. -/
def execAddReg (x y : Nibble) (s : State) : Result :=
  .next (s.setRegFlag x (s.reg x + s.reg y) (carryFlag (s.reg x) (s.reg y))).advance

/-- `sub-reg Vx, Vy` (R135): the difference modulo 256; VF is 1 for no borrow. -/
def execSubReg (x y : Nibble) (s : State) : Result :=
  .next (s.setRegFlag x (s.reg x - s.reg y) (noBorrowFlag (s.reg x) (s.reg y))).advance

/-- `shift-right Vx` (R136): `V[x]` shifted in place, `V[y]` not read; VF is the bit shifted out. -/
def execShiftRight (x _y : Nibble) (s : State) : Result :=
  .next (s.setRegFlag x (s.reg x >>> 1) (lowBitFlag (s.reg x))).advance

/-- `subn-reg Vx, Vy` (R137): `V[y] - V[x]` modulo 256; VF is 1 only where `V[y]` is strictly greater. -/
def execSubnReg (x y : Nibble) (s : State) : Result :=
  .next (s.setRegFlag x (s.reg y - s.reg x) (greaterFlag (s.reg x) (s.reg y))).advance

/-- `shift-left Vx` (R138): `V[x]` doubled in place modulo 256, `V[y]` not read; VF is the bit shifted out. -/
def execShiftLeft (x _y : Nibble) (s : State) : Result :=
  .next (s.setRegFlag x (s.reg x <<< 1) (highBitFlag (s.reg x))).advance

end Sys2Proof.Machine
end

