-- ==== Sys2Proof/Machine/Draw.lean ====
section
/-! DEFINITION. draw-sprite, the XOR blitter with collision detection (spec/45_draw.md). -/

namespace Sys2Proof.Machine

/-- The sprite drawn, once the memory and display checks have passed: pixels, then VF last, then `pc` (R160). -/
def drawRows (ox oy : Nat) (rows : List Byte) (s : State) : State :=
  ((s.setDisp (blit ox s.disp oy rows)).setReg vf (collisionFlag (collides s.disp ox oy rows))).advance

/-- `draw-sprite Vx, Vy, n` (R160): memory is checked before the display (R162), and both before anything is written. -/
def execDrawSprite (x y n : Nibble) (s : State) : Result :=
  match s.readSpan s.i.toNat n.toNat with
  | .error f => raise f
  | .ok rows =>
    if spriteFits (originColumn (s.reg x)) (originRow (s.reg y)) n.toNat then
      .next (drawRows (originColumn (s.reg x)) (originRow (s.reg y)) rows s)
    else raise (.displayOutOfBounds (originColumn (s.reg x)) (originRow (s.reg y)) n.toNat)

end Sys2Proof.Machine
end

