-- ==== Sys2Proof/Machine/Immediate.lean ====
section
/-! DEFINITION. load-byte and add-byte (spec/42_immediate.md). -/

namespace Sys2Proof.Machine

/-- `load-byte Vx, kk` (R120). -/
def execLoadByte (x : Nibble) (kk : Byte) (s : State) : Result := .next (s.setReg x kk).advance

/-- `add-byte Vx, kk` (R121): modulo 256, no flag. -/
def execAddByte (x : Nibble) (kk : Byte) (s : State) : Result := .next (s.setReg x (s.reg x + kk)).advance

end Sys2Proof.Machine
end

