-- ==== Sys2Proof/Machine/IndexJumpRandom.lean ====
section
/-! DEFINITION. load-i, jump-plus-v0, random-and-mask (spec/44_index_jump_random.md). -/

namespace Sys2Proof.Machine

/-- `load-i nnn` (R150): zero-extended to 16 bits. -/
def execLoadI (nnn : Addr12) (s : State) : Result := .next (s.setI (nnn.setWidth 16)).advance

/-- `jump-plus-v0 nnn` (R151): `nnn + V[0]`, not reduced to 12 bits. -/
def execJumpPlusV0 (nnn : Addr12) (s : State) : Result := .next (s.setPc (nnn.setWidth 16 + (s.reg 0#4).setWidth 16))

/-- `random-and-mask Vx, kk` (R152): a free byte masked with `kk` (log entry 1). -/
def execRandomAndMask (x : Nibble) (kk : Byte) (s : State) : Result :=
  .next (s.setReg x (s.draw8 &&& kk)).consumeDraw.advance

end Sys2Proof.Machine
end

