-- ==== Sys2Proof/Machine/IndexMemory.lean ====
section
/-! DEFINITION. Index arithmetic and memory transfer (spec/48_index_memory.md). `I` is changed by the first two alone
(R195). -/

namespace Sys2Proof.Machine

/-- `add-to-i Vx` (R190): modulo 65536, no flag. -/
def execAddToI (x : Nibble) (s : State) : Result := .next (s.setI (s.i + (s.reg x).setWidth 16)).advance

/-- `load-font-address Vx` (R191): an address only, nothing read and nothing checked. -/
def execLoadFontAddress (x : Nibble) (s : State) : Result := .next (s.setI (glyphAddress (s.reg x))).advance

/-- Bytes stored at `I`, checked whole before the first is written, and then `pc` (R192, R193). -/
def storeAtI (bytes : List Byte) (s : State) : Result :=
  match s.writeSpan s.i.toNat bytes with
  | .error f => raise f
  | .ok t => .next t.advance

/-- `store-bcd Vx` (R192). -/
def execStoreBcd (x : Nibble) (s : State) : Result := storeAtI (bcdDigits (s.reg x)) s

/-- `store-block Vx` (R193): `V[0]` to `V[x]` inclusive. -/
def execStoreBlock (x : Nibble) (s : State) : Result := storeAtI (s.regBlock x) s

/-- `load-block Vx` (R194): `V[0]` to `V[x]` inclusive, nothing loaded where an address is out of bounds. -/
def execLoadBlock (x : Nibble) (s : State) : Result :=
  match s.readSpan s.i.toNat (x.toNat + 1) with
  | .error f => raise f
  | .ok bytes => .next (s.setRegBlock bytes).advance

end Sys2Proof.Machine
end

