-- ==== Sys2Proof/Machine/Keypad.lean ====
section
/-! DEFINITION. The keypad instructions (spec/46_keypad.md). -/

namespace Sys2Proof.Machine

/-- A skip on the state of the key whose index is `V[x]`; an index above 15 is a fault (R170, R171). -/
def skipOnKey (x : Nibble) (wanted : Bool) (s : State) : Result :=
  if 15 < (s.reg x).toNat then raise (.keyIndexOutOfRange (s.reg x))
  else .next (s.skipIf (s.keyAt ((s.reg x).setWidth 4) == wanted))

/-- `skip-if-key-pressed Vx` (R170). -/
def execSkipIfKeyPressed (x : Nibble) (s : State) : Result := skipOnKey x true s

/-- `skip-if-key-not-pressed Vx` (R171). -/
def execSkipIfKeyNotPressed (x : Nibble) (s : State) : Result := skipOnKey x false s

/-- `load-vx-blocking-on-key Vx` (R172, R173): the smallest pressed key, or no progress while none is pressed. -/
def execLoadVxBlockingOnKey (x : Nibble) (s : State) : Result :=
  match s.lowestKey with
  | some k => .next (s.setReg x (BitVec.ofNat 8 k)).advance
  | none => .next s

end Sys2Proof.Machine
end

