-- ==== Sys2Proof/Machine/ScreenFlow.lean ====
section
/-! DEFINITION. clear-screen, return, jump, call (spec/40_screen_and_flow.md). -/

namespace Sys2Proof.Machine

/-- `clear-screen` (R100): every pixel to 0. -/
def execClearScreen (s : State) : Result := .next (s.setDisp (Vector.replicate 32 0#64)).advance

/-- `return` (R101): guarded against `SP = 0`; the entry read is left in place and no 2 is added. -/
def execReturn (s : State) : Result :=
  if s.sp = 0#4 then raise (.stackUnderflow s.pc)
  else .next ((s.setPc (s.stackAt s.sp)).setSp (s.sp - 1#4))

/-- `jump nnn` (R102). -/
def execJump (nnn : Addr12) (s : State) : Result := .next (s.setPc (nnn.setWidth 16))

/-- `call nnn` (R103): guarded against `SP = 15`; the new SP indexes the write. -/
def execCall (nnn : Addr12) (s : State) : Result :=
  if s.sp = 15#4 then raise (.stackOverflow s.pc)
  else .next (((s.setSp (s.sp + 1#4)).setStackAt (s.sp + 1#4) (s.pc + 2#16)).setPc (nnn.setWidth 16))

end Sys2Proof.Machine
end

