-- ==== Sys2Proof/Machine/Skips.lean ====
section
/-! DEFINITION. The four compare-and-skip instructions (spec/41_skips.md). -/

namespace Sys2Proof.Machine

/-- `skip-if-equal-byte Vx, kk` (R110). -/
def execSkipIfEqualByte (x : Nibble) (kk : Byte) (s : State) : Result := .next (s.skipIf (decide (s.reg x = kk)))

/-- `skip-if-not-equal-byte Vx, kk` (R111). -/
def execSkipIfNotEqualByte (x : Nibble) (kk : Byte) (s : State) : Result := .next (s.skipIf (decide (s.reg x ≠ kk)))

/-- `skip-if-equal-reg Vx, Vy` (R112). -/
def execSkipIfEqualReg (x y : Nibble) (s : State) : Result := .next (s.skipIf (decide (s.reg x = s.reg y)))

/-- `skip-if-not-equal-reg Vx, Vy` (R113). -/
def execSkipIfNotEqualReg (x y : Nibble) (s : State) : Result := .next (s.skipIf (decide (s.reg x ≠ s.reg y)))

end Sys2Proof.Machine
end

