-- ==== Sys2Proof/Machine/Timers.lean ====
section
/-! DEFINITION. The timer load instructions (spec/47_timers.md). -/

namespace Sys2Proof.Machine

/-- `load-vx-from-delay-timer Vx` (R180). -/
def execLoadVxFromDelayTimer (x : Nibble) (s : State) : Result := .next (s.setReg x s.dt).advance

/-- `load-delay-timer Vx` (R181). -/
def execLoadDelayTimer (x : Nibble) (s : State) : Result := .next (s.setDt (s.reg x)).advance

/-- `load-sound-timer Vx` (R182). -/
def execLoadSoundTimer (x : Nibble) (s : State) : Result := .next (s.setSt (s.reg x)).advance

end Sys2Proof.Machine
end

