-- ==== Sys2Proof/Machine/Step.lean ====
section
/-! DEFINITION. The `step` operation (spec/49_host_operations.md R201), and an instruction placed where it fetches next. -/

namespace Sys2Proof.Machine

/-- `step()`: fetch, decode, execute; the first fault in that order is the step's (spec/60_exceptions.md R230). -/
def step (s : State) : Host.Outcome State Fault Refusal :=
  match s.fetch with
  | .error f => raise f
  | .ok op =>
    match decodeWord op with
    | none => raise (.unknownOpcode op)
    | some i => exec i s

/-- The state with its `pc` where two bytes can be fetched: unchanged where they already can, else at the entry point. -/
def State.withFetchablePc (s : State) : State :=
  if s.pc.toNat + 1 < Config.memSize then s else s.setPc Config.programBase

/-- The state with an instruction of the opcode table stored, as `load-image` would store it, where `step` fetches next. -/
def State.withFetchWord (s : State) (nbits w : Nat) : State :=
  s.withFetchablePc.writeBytes s.withFetchablePc.pc.toNat (bytesOfWord (tableWord nbits w))

end Sys2Proof.Machine
end

