-- ==== Sys2Proof/Machine/HostOps.lean ====
section
/-! DEFINITION. The operations the engine exposes to its host (spec/49_host_operations.md R200), each indivisible, and a
schedule of them. -/

namespace Sys2Proof.Machine

/-- The register snapshot: every register of the engine (R206). -/
structure RegisterSnapshot where
  v : Vector Byte 16
  i : Word
  pc : Word
  sp : Nibble
  dt : Byte
  st : Byte
  deriving DecidableEq, Repr

/-- The operations of R200. `setKey` takes four bits, so an index outside 0 to 15 is not accepted (R205). -/
inductive HostOp where
  | reset
  | loadImage (bytes : List Byte) (base : Nat)
  | step
  | tickTimers
  | setKey (k : Nibble) (pressed : Bool)
  | readDisplay
  | readRegisters
  | readStack
  deriving DecidableEq, Repr

/-- What an operation returns: `Ok`, an `Err`, or the values an accessor reads (spec/60_exceptions.md R220). -/
inductive OpOutcome where
  | ok
  | execError (f : Fault)
  | refused (r : Refusal)
  | imageTooLarge
  | displayRead (d : Vector PixelRow 32)
  | registersRead (r : RegisterSnapshot)
  | stackRead (entries : Vector Word 16)
  deriving DecidableEq, Repr

/-- `reset()` (spec/70_reset_and_hazards.md R260): everything at its reset value, memory holding FONT_IMAGE and zeros, but
`Key`, which the host owns; the parameter FONT_IMAGE and the outside random source are not the engine's to reset. -/
def State.resetOp (s : State) : State :=
  { State.reset with keys := s.keys, draws := s.draws, fontImage := s.fontImage }

/-- `load-image(bytes, base)` (R202): one check, and then the bytes are copied. -/
def State.loadImage (bytes : List Byte) (base : Nat) (s : State) : State × OpOutcome :=
  if imageFits bytes base then (s.writeBytes base bytes, .ok) else (s, .imageTooLarge)

/-- A timer counted down by one, stopping at 0. -/
def countDown (t : Byte) : Byte := if t = 0#8 then 0#8 else t - 1#8

/-- `tick-timers()` (spec/60_exceptions.md R241). -/
def State.tickTimers (s : State) : State := (s.setDt (countDown s.dt)).setSt (countDown s.st)

/-- The `step` operation with its outcome: a fault leaves the state as it was (R229). -/
def State.stepOp (s : State) : State × OpOutcome :=
  match Sys2Proof.Machine.step s with
  | .next t => (t, .ok)
  | .fault f => (s, .execError f)
  | .refused r => (s, .refused r)

/-- The register snapshot (R206). -/
def State.registers (s : State) : RegisterSnapshot :=
  { v := s.v, i := s.i, pc := s.pc, sp := s.sp, dt := s.dt, st := s.st }

/-- One operation: the state it leaves and what it returns (R200). -/
def State.apply (s : State) : HostOp → State × OpOutcome
  | .reset => (s.resetOp, .ok)
  | .loadImage bytes base => s.loadImage bytes base
  | .step => s.stepOp
  | .tickTimers => (s.tickTimers, .ok)
  | .setKey k pressed => (s.setKeyAt k pressed, .ok)
  | .readDisplay => (s, .displayRead s.disp)
  | .readRegisters => (s, .registersRead s.registers)
  | .readStack => (s, .stackRead s.stack)

/-- The violations the source calls fatal: no claim is made of an execution that continues past one
(spec/60_exceptions.md R225, R226, R232; U3, U4). -/
def Fault.isFatal : Fault → Bool
  | .memoryOutOfBounds _ => true
  | .displayOutOfBounds _ _ _ => true
  | .unknownOpcode _ => false
  | .stackOverflow _ => false
  | .stackUnderflow _ => false
  | .keyIndexOutOfRange _ => false

/-- The fatal fault an operation returns, if it returns one. -/
def OpOutcome.fatal : OpOutcome → Option Fault
  | .execError f => if f.isFatal then some f else none
  | .ok => none
  | .refused _ => none
  | .imageTooLarge => none
  | .displayRead _ => none
  | .registersRead _ => none
  | .stackRead _ => none

/-- A schedule: operations one after another, each seeing exactly what the last one left (spec/92_eei_decisions.md D20). It
leaves a state only where no operation returned a fatal fault: past one there is no state to speak of (R232, log entry 11). -/
def State.runSchedule (s : State) : List HostOp → Except Fault State
  | [] => .ok s
  | op :: ops =>
    match (s.apply op).2.fatal with
    | some f => .error f
    | none => (s.apply op).1.runSchedule ops

/-- What the operations of a schedule return, in order, up to the first fatal fault. -/
def State.outcomes (s : State) : List HostOp → List OpOutcome
  | [] => []
  | op :: ops =>
    (s.apply op).2 :: match (s.apply op).2.fatal with
      | some _ => []
      | none => (s.apply op).1.outcomes ops

end Sys2Proof.Machine
end

