-- ==== Sys2Proof/Safety.lean ====
section
/-! DEFINITION. What counts as a safe run, and the invariant of the machine. -/

namespace Sys2Proof.Machine

/-- An operation's outcome is no error (R220). -/
def OpOutcome.isOk : OpOutcome → Bool
  | .execError _ => false
  | .refused _ => false
  | .imageTooLarge => false
  | .ok => true
  | .displayRead _ => true
  | .registersRead _ => true
  | .stackRead _ => true

/-- A safe run: every operation of the schedule returns without an error. -/
def State.safeRun (s : State) (ops : List HostOp) : Bool := (s.outcomes ops).all OpOutcome.isOk

/-- A final state: `pc` is at a jump to its own address, the customary end of a program (spec/70_reset_and_hazards.md R273,
log entry 11). A state whose step faults is never one (spec/60_exceptions.md R232). -/
def State.isFinal (s : State) : Bool :=
  match s.fetch with
  | .ok op => decodeWord op == some (.jump (s.pc.setWidth 12))
  | .error _ => false

/-- The range of `pc` and of the stack entries that runs stay in (spec/10_state.md R27), and the unused entry (R30). -/
def State.flowInRange (s : State) : Bool :=
  decide (s.pc.toNat ≤ 0x10FE) && s.stack.toList.all (fun a => decide (a.toNat ≤ 0x1000)) && decide (s.stackAt 0#4 = 0#16)

/-- The invariant of the machine: memory in canonical form, the parameter FONT_IMAGE within its bound (spec/70 R261), and
control flow in range. -/
def State.inv (s : State) : Bool := Memory.wf s.fontImage s.mem && fontImageFits s.fontImage && s.flowInRange

/-- The kinds of state claims speak of, but for `pc`. -/
inductive Part where
  | registers
  | index
  | callStack
  | delayTimer
  | soundTimer
  | display
  | memory
  | keys
  | draws
  | font
  deriving DecidableEq, Repr

/-- Two states read alike in one kind of state. -/
def kept (s t : State) : Part → Prop
  | .registers => ∀ z, t.reg z = s.reg z
  | .index => t.i = s.i
  | .callStack => t.sp = s.sp ∧ ∀ k, t.stackAt k = s.stackAt k
  | .delayTimer => t.dt = s.dt
  | .soundTimer => t.st = s.st
  | .display => ∀ r c, r < 32 → c < 64 → t.pixel r c = s.pixel r c
  | .memory => ∀ a, t.byteAt a = s.byteAt a
  | .keys => ∀ k, t.keyAt k = s.keyAt k
  | .draws => t.draws = s.draws
  | .font => t.fontImage = s.fontImage

/-- Two states read alike in every kind of state but the ones named; `pc` is spoken of apart. -/
def keepsAllBut (changed : List Part) (s t : State) : Prop := ∀ p, p ∉ changed → kept s t p

/-- Every register but the ones named reads alike. -/
def regsKeptBut (changed : List Nibble) (s t : State) : Prop := ∀ z, z ∉ changed → t.reg z = s.reg z

/-- `pc` is `trunc16(pc + k)` (spec/10_state.md R26). -/
def pcPlus (k : Nat) (s t : State) : Prop := t.pc.toNat = (s.pc.toNat + k) % 65536

/-- The next step fetches the word of this instruction. -/
def State.fetches (s : State) (i : Instr) : Prop := ∃ op, s.fetch = .ok op ∧ decodeWord op = some i

/-- The sprite bit that falls on pixel (r, c) for a sprite of `n` rows at an origin: row `r - oy` is the byte at
`I + (r - oy)`, and bit 7 is its leftmost column (spec/45_draw.md R160, R165); 0 off the sprite. -/
def State.spriteBit (s : State) (ox oy n r c : Nat) : Bool :=
  if oy ≤ r ∧ r < oy + n ∧ ox ≤ c ∧ c < ox + 8 then (s.byteAt (s.i.toNat + (r - oy))).getLsbD (7 - (c - ox)) else false

/-- The kinds of state an instruction may change, from the writers the spec names: registers R24, `I` R28, the stack R29 and
R30, timers R31, the display R33, memory spec/20_memory.md R56; a random byte is consumed by random-and-mask alone
(spec/00_scope.md R15). -/
def changes : Instr → List Part
  | .clearScreen => [.display]
  | .ret => [.callStack]
  | .jump _ => []
  | .call _ => [.callStack]
  | .skipIfEqualByte _ _ => []
  | .skipIfNotEqualByte _ _ => []
  | .skipIfEqualReg _ _ => []
  | .loadByte _ _ => [.registers]
  | .addByte _ _ => [.registers]
  | .loadReg _ _ => [.registers]
  | .orReg _ _ => [.registers]
  | .andReg _ _ => [.registers]
  | .xorReg _ _ => [.registers]
  | .addReg _ _ => [.registers]
  | .subReg _ _ => [.registers]
  | .shiftRight _ _ => [.registers]
  | .subnReg _ _ => [.registers]
  | .shiftLeft _ _ => [.registers]
  | .skipIfNotEqualReg _ _ => []
  | .loadI _ => [.index]
  | .jumpPlusV0 _ => []
  | .randomAndMask _ _ => [.registers, .draws]
  | .drawSprite _ _ _ => [.registers, .display]
  | .skipIfKeyPressed _ => []
  | .skipIfKeyNotPressed _ => []
  | .loadVxFromDelayTimer _ => [.registers]
  | .loadVxBlockingOnKey _ => [.registers]
  | .loadDelayTimer _ => [.delayTimer]
  | .loadSoundTimer _ => [.soundTimer]
  | .addToI _ => [.index]
  | .loadFontAddress _ => [.index]
  | .storeBcd _ => [.memory]
  | .storeBlock _ => [.memory]
  | .loadBlock _ => [.registers]

/-- The instructions that write VF as a flag on every execution (spec/10_state.md R22). -/
def writesFlag : Instr → Bool
  | .addReg _ _ => true
  | .subReg _ _ => true
  | .shiftRight _ _ => true
  | .subnReg _ _ => true
  | .shiftLeft _ _ => true
  | .drawSprite _ _ _ => true
  | .clearScreen | .ret | .jump _ | .call _ | .skipIfEqualByte _ _ | .skipIfNotEqualByte _ _ | .skipIfEqualReg _ _
  | .loadByte _ _ | .addByte _ _ | .loadReg _ _ | .orReg _ _ | .andReg _ _ | .xorReg _ _ | .skipIfNotEqualReg _ _
  | .loadI _ | .jumpPlusV0 _ | .randomAndMask _ _ | .skipIfKeyPressed _ | .skipIfKeyNotPressed _
  | .loadVxFromDelayTimer _ | .loadVxBlockingOnKey _ | .loadDelayTimer _ | .loadSoundTimer _ | .addToI _
  | .loadFontAddress _ | .storeBcd _ | .storeBlock _ | .loadBlock _ => false

/-- Whether a register is an ordinary destination of an instruction: the write rows of the access table (R24). -/
def writesOrdinary (z : Nibble) : Instr → Bool
  | .loadByte x _ => z == x
  | .addByte x _ => z == x
  | .loadReg x _ => z == x
  | .orReg x _ => z == x
  | .andReg x _ => z == x
  | .xorReg x _ => z == x
  | .addReg x _ => z == x
  | .subReg x _ => z == x
  | .shiftRight x _ => z == x
  | .subnReg x _ => z == x
  | .shiftLeft x _ => z == x
  | .randomAndMask x _ => z == x
  | .loadVxFromDelayTimer x => z == x
  | .loadVxBlockingOnKey x => z == x
  | .loadBlock x => decide (z.toNat ≤ x.toNat)
  | .clearScreen | .ret | .jump _ | .call _ | .skipIfEqualByte _ _ | .skipIfNotEqualByte _ _ | .skipIfEqualReg _ _
  | .skipIfNotEqualReg _ _ | .loadI _ | .jumpPlusV0 _ | .drawSprite _ _ _ | .skipIfKeyPressed _
  | .skipIfKeyNotPressed _ | .loadDelayTimer _ | .loadSoundTimer _ | .addToI _ | .loadFontAddress _ | .storeBcd _
  | .storeBlock _ => false

/-- The instructions that read the keypad (spec/10_state.md R34, spec/49_host_operations.md R201). -/
def readsKeys : Instr → Bool
  | .skipIfKeyPressed _ => true
  | .skipIfKeyNotPressed _ => true
  | .loadVxBlockingOnKey _ => true
  | .clearScreen | .ret | .jump _ | .call _ | .skipIfEqualByte _ _ | .skipIfNotEqualByte _ _ | .skipIfEqualReg _ _
  | .loadByte _ _ | .addByte _ _ | .loadReg _ _ | .orReg _ _ | .andReg _ _ | .xorReg _ _ | .addReg _ _ | .subReg _ _
  | .shiftRight _ _ | .subnReg _ _ | .shiftLeft _ _ | .skipIfNotEqualReg _ _ | .loadI _ | .jumpPlusV0 _
  | .randomAndMask _ _ | .drawSprite _ _ _ | .loadVxFromDelayTimer _ | .loadDelayTimer _ | .loadSoundTimer _
  | .addToI _ | .loadFontAddress _ | .storeBcd _ | .storeBlock _ | .loadBlock _ => false

/-- The condition of a skip; none for an instruction that is no skip (spec/10_state.md R26: there are six). -/
def skipCondition (s : State) : Instr → Option Bool
  | .skipIfEqualByte x kk => some (decide ((s.reg x).toNat = kk.toNat))
  | .skipIfNotEqualByte x kk => some (decide ((s.reg x).toNat ≠ kk.toNat))
  | .skipIfEqualReg x y => some (decide ((s.reg x).toNat = (s.reg y).toNat))
  | .skipIfNotEqualReg x y => some (decide ((s.reg x).toNat ≠ (s.reg y).toNat))
  | .skipIfKeyPressed x => some (s.keyAt (BitVec.ofNat 4 (s.reg x).toNat))
  | .skipIfKeyNotPressed x => some (!s.keyAt (BitVec.ofNat 4 (s.reg x).toNat))
  | .clearScreen | .ret | .jump _ | .call _ | .loadByte _ _ | .addByte _ _ | .loadReg _ _ | .orReg _ _ | .andReg _ _
  | .xorReg _ _ | .addReg _ _ | .subReg _ _ | .shiftRight _ _ | .subnReg _ _ | .shiftLeft _ _ | .loadI _
  | .jumpPlusV0 _ | .randomAndMask _ _ | .drawSprite _ _ _ | .loadVxFromDelayTimer _ | .loadVxBlockingOnKey _
  | .loadDelayTimer _ | .loadSoundTimer _ | .addToI _ | .loadFontAddress _ | .storeBcd _ | .storeBlock _
  | .loadBlock _ => none

/-- The operations that can end a standstill (spec/60_exceptions.md R232). -/
def HostOp.endsStandstill : HostOp → Bool
  | .reset => true
  | .loadImage _ _ => true
  | .step => false
  | .tickTimers => false
  | .setKey _ _ => false
  | .readDisplay => false
  | .readRegisters => false
  | .readStack => false

end Sys2Proof.Machine
end

