-- ==== Sys2Proof/Certificates/Slice0/Obligations.lean ====
section
/-! DEFINITION. The statements for the provers, each with the rule of spec/ it formalises. `decodeWord` of a word written in
its format (R72) says the encoding; `keepsAllBut` says the frame, all of memory byte by byte included. -/

namespace Sys2Proof.Claims

open Sys2Proof.Machine

/-- `disp[r][c] <- b` on the display. -/
def setPixel (s : State) (r c : Nat) (b : Bool) : State :=
  s.setDisp (s.disp.setIfInBounds r
    (if b then rowAt s.disp r ||| 1#64 <<< c else rowAt s.disp r &&& ~~~(1#64 <<< c)))

/-- One pass of the inner loop of the pseudocode of R160: sprite row `r`, sprite column `c`, on the display and the
collision so far; the sprite is read from the state `s` before the instruction. -/
def drawPixel (s : State) (ox oy r : Nat) (acc : State × Bool) (c : Nat) : State × Bool :=
  let bit := (s.byteAt (s.i.toNat + r)).getLsbD (7 - c)
  let old := acc.1.pixel (oy + r) (ox + c)
  (setPixel acc.1 (oy + r) (ox + c) (old ^^ bit), acc.2 || (bit && old))

/-- The two loops of the pseudocode of R160. -/
def drawLoops (s : State) (ox oy n : Nat) : State × Bool :=
  (List.range n).foldl (fun acc r => (List.range 8).foldl (drawPixel s ox oy r) acc) (s, false)

/-- VF after an instruction that writes it as a flag, as the table of R22 gives it. -/
def vfAsTable (s t : State) : Instr → Prop
  | .addReg x y => (t.reg 15#4).toNat = if (s.reg x).toNat + (s.reg y).toNat ≥ 256 then 1 else 0
  | .subReg x y => (t.reg 15#4).toNat = if (s.reg x).toNat ≥ (s.reg y).toNat then 1 else 0
  | .shiftRight x _ => (t.reg 15#4).toNat = if (s.reg x).getLsbD 0 then 1 else 0
  | .subnReg x y => (t.reg 15#4).toNat = if (s.reg y).toNat > (s.reg x).toNat then 1 else 0
  | .shiftLeft x _ => (t.reg 15#4).toNat = if (s.reg x).getLsbD 7 then 1 else 0
  | .drawSprite _ _ _ =>
    (t.reg 15#4).toNat = 1 ↔ ∃ r c, r < 32 ∧ c < 64 ∧ s.pixel r c = true ∧ t.pixel r c = false
  | _ => True

/-- `pc` after an instruction that goes on, as the table of R26 gives it. -/
def pcAsTable (s t : State) : Instr → Prop
  | .jump nnn => t.pc.toNat = nnn.toNat
  | .call nnn => t.pc.toNat = nnn.toNat
  | .jumpPlusV0 nnn => t.pc.toNat = nnn.toNat + (s.reg 0#4).toNat
  | .ret => t.pc = s.stackAt s.sp
  | .loadVxBlockingOnKey _ => if ∀ k, s.keyAt k = false then t.pc = s.pc else pcPlus 2 s t
  | i => match skipCondition s i with
    | some true => pcPlus 4 s t
    | some false => pcPlus 2 s t
    | none => pcPlus 2 s t

end Sys2Proof.Claims

open Sys2Proof Sys2Proof.Machine Sys2Proof.Claims

/-! ### Screen and flow -/

/-- R100. -/
def Obligations.ClearScreenClearsEveryPixel : Prop :=
  decodeWord 0x00E0#16 = some .clearScreen ∧
  ∀ s : State, ∃ t, exec .clearScreen s = .next t ∧ (∀ r c, r < 32 → c < 64 → t.pixel r c = false) ∧
    pcPlus 2 s t ∧ keepsAllBut [.display] s t

/-- R101 (the guard is the spec's decision D5): the entry is read and left in place. -/
def Obligations.ReturnGoesToTheSavedAddress : Prop :=
  decodeWord 0x00EE#16 = some .ret ∧
  ∀ s : State,
    (s.sp ≠ 0#4 → ∃ t, exec .ret s = .next t ∧ t.pc = s.stackAt s.sp ∧ t.sp.toNat + 1 = s.sp.toNat ∧
      (∀ k, t.stackAt k = s.stackAt k) ∧ keepsAllBut [.callStack] s t) ∧
    (s.sp = 0#4 → exec .ret s = .fault (.stackUnderflow s.pc))

/-- R102. -/
def Obligations.JumpSetsPcToTheAddress : Prop :=
  ∀ (nnn : Addr12) (s : State), decodeWord (wordNNN 0x1#4 nnn) = some (.jump nnn) ∧
    ∃ t, exec (.jump nnn) s = .next t ∧ t.pc.toNat = nnn.toNat ∧ keepsAllBut [] s t

/-- R103 (the guard is the spec's decision D5): the new SP indexes the write of `trunc16(pc + 2)`. -/
def Obligations.CallSavesTheReturnAddress : Prop :=
  ∀ (nnn : Addr12) (s : State), decodeWord (wordNNN 0x2#4 nnn) = some (.call nnn) ∧
    (s.sp ≠ 15#4 → ∃ t, exec (.call nnn) s = .next t ∧ t.sp.toNat = s.sp.toNat + 1 ∧
      (t.stackAt t.sp).toNat = (s.pc.toNat + 2) % 65536 ∧ (∀ k, k ≠ t.sp → t.stackAt k = s.stackAt k) ∧
      t.pc.toNat = nnn.toNat ∧ keepsAllBut [.callStack] s t) ∧
    (s.sp = 15#4 → exec (.call nnn) s = .fault (.stackOverflow s.pc))

/-- The pairing law the spec derives as R105: a return at the depth a call left, from any state with that entry still in
place, goes to the instruction after the call and leaves the depth the call found. -/
def Obligations.ReturnUndoesCall : Prop :=
  ∀ (nnn : Addr12) (s t u : State), exec (.call nnn) s = .next t → u.sp = t.sp → u.stackAt u.sp = t.stackAt t.sp →
    ∃ w, exec .ret u = .next w ∧ pcPlus 2 s w ∧ w.sp = s.sp

/-! ### Skips -/

/-- R110, R111. -/
def Obligations.ByteSkipsCompareWithTheImmediate : Prop :=
  ∀ (x : Nibble) (kk : Byte) (s : State),
    decodeWord (wordXKK 0x3#4 x kk) = some (.skipIfEqualByte x kk) ∧
    decodeWord (wordXKK 0x4#4 x kk) = some (.skipIfNotEqualByte x kk) ∧
    (∃ t, exec (.skipIfEqualByte x kk) s = .next t ∧ keepsAllBut [] s t ∧
      ((s.reg x).toNat = kk.toNat → pcPlus 4 s t) ∧ ((s.reg x).toNat ≠ kk.toNat → pcPlus 2 s t)) ∧
    (∃ t, exec (.skipIfNotEqualByte x kk) s = .next t ∧ keepsAllBut [] s t ∧
      ((s.reg x).toNat ≠ kk.toNat → pcPlus 4 s t) ∧ ((s.reg x).toNat = kk.toNat → pcPlus 2 s t))

/-- R112, R113: and a word of class 5 or 9 with `n` not 0 is unknown. -/
def Obligations.RegisterSkipsCompareTwoRegisters : Prop :=
  ∀ (x y : Nibble) (s : State),
    decodeWord (wordXYN 0x5#4 x y 0x0#4) = some (.skipIfEqualReg x y) ∧
    decodeWord (wordXYN 0x9#4 x y 0x0#4) = some (.skipIfNotEqualReg x y) ∧
    (∀ n : Nibble, n ≠ 0#4 → decodeWord (wordXYN 0x5#4 x y n) = none ∧ decodeWord (wordXYN 0x9#4 x y n) = none) ∧
    (∃ t, exec (.skipIfEqualReg x y) s = .next t ∧ keepsAllBut [] s t ∧
      ((s.reg x).toNat = (s.reg y).toNat → pcPlus 4 s t) ∧ ((s.reg x).toNat ≠ (s.reg y).toNat → pcPlus 2 s t)) ∧
    (∃ t, exec (.skipIfNotEqualReg x y) s = .next t ∧ keepsAllBut [] s t ∧
      ((s.reg x).toNat ≠ (s.reg y).toNat → pcPlus 4 s t) ∧ ((s.reg x).toNat = (s.reg y).toNat → pcPlus 2 s t))

/-! ### Immediates -/

/-- R120, R121: VF is written only where it is the destination. -/
def Obligations.ImmediatesLoadAndAddModulo256 : Prop :=
  ∀ (x : Nibble) (kk : Byte) (s : State),
    decodeWord (wordXKK 0x6#4 x kk) = some (.loadByte x kk) ∧ decodeWord (wordXKK 0x7#4 x kk) = some (.addByte x kk) ∧
    (∃ t, exec (.loadByte x kk) s = .next t ∧ (t.reg x).toNat = kk.toNat ∧ regsKeptBut [x] s t ∧
      pcPlus 2 s t ∧ keepsAllBut [.registers] s t) ∧
    (∃ t, exec (.addByte x kk) s = .next t ∧ (t.reg x).toNat = ((s.reg x).toNat + kk.toNat) % 256 ∧
      regsKeptBut [x] s t ∧ pcPlus 2 s t ∧ keepsAllBut [.registers] s t)

/-- The source's property "add-byte is associative with wraparound" (R121), as 95_test_vectors.md L1-1 reads it: two in a
row are one with the sum of the immediates, but for `pc`. -/
def Obligations.TwoAddBytesAreOne : Prop :=
  ∀ (x : Nibble) (a b : Byte) (s t u w : State), exec (.addByte x a) s = .next t → exec (.addByte x b) t = .next u →
    exec (.addByte x (a + b)) s = .next w → (∀ z, u.reg z = w.reg z) ∧ keepsAllBut [] w u

/-! ### Class 8 -/

/-- R130 to R133 (the formulas are the spec's, from general knowledge): no flag. -/
def Obligations.CopyAndLogicWriteNoFlag : Prop :=
  ∀ (x y : Nibble) (s : State),
    decodeWord (wordXYN 0x8#4 x y 0x0#4) = some (.loadReg x y) ∧ decodeWord (wordXYN 0x8#4 x y 0x1#4) = some (.orReg x y) ∧
    decodeWord (wordXYN 0x8#4 x y 0x2#4) = some (.andReg x y) ∧ decodeWord (wordXYN 0x8#4 x y 0x3#4) = some (.xorReg x y) ∧
    (∃ t, exec (.loadReg x y) s = .next t ∧ t.reg x = s.reg y ∧
      regsKeptBut [x] s t ∧ pcPlus 2 s t ∧ keepsAllBut [.registers] s t) ∧
    (∃ t, exec (.orReg x y) s = .next t ∧
      (∀ k, k < 8 → (t.reg x).getLsbD k = ((s.reg x).getLsbD k || (s.reg y).getLsbD k)) ∧
      regsKeptBut [x] s t ∧ pcPlus 2 s t ∧ keepsAllBut [.registers] s t) ∧
    (∃ t, exec (.andReg x y) s = .next t ∧
      (∀ k, k < 8 → (t.reg x).getLsbD k = ((s.reg x).getLsbD k && (s.reg y).getLsbD k)) ∧
      regsKeptBut [x] s t ∧ pcPlus 2 s t ∧ keepsAllBut [.registers] s t) ∧
    (∃ t, exec (.xorReg x y) s = .next t ∧
      (∀ k, k < 8 → (t.reg x).getLsbD k = ((s.reg x).getLsbD k ^^ (s.reg y).getLsbD k)) ∧
      regsKeptBut [x] s t ∧ pcPlus 2 s t ∧ keepsAllBut [.registers] s t)

/-- R134: the sum modulo 256, and VF, written last, is the carry. -/
def Obligations.AddRegSetsTheCarry : Prop :=
  ∀ (x y : Nibble) (s : State), decodeWord (wordXYN 0x8#4 x y 0x4#4) = some (.addReg x y) ∧
    ∃ t, exec (.addReg x y) s = .next t ∧
      (x ≠ 15#4 → (t.reg x).toNat = ((s.reg x).toNat + (s.reg y).toNat) % 256) ∧
      (t.reg 15#4).toNat = (if (s.reg x).toNat + (s.reg y).toNat ≥ 256 then 1 else 0) ∧
      regsKeptBut [x, 15#4] s t ∧ pcPlus 2 s t ∧ keepsAllBut [.registers] s t

/-- R135: the difference modulo 256, and VF is 1 for no borrow, equal operands included. -/
def Obligations.SubRegSetsNoBorrow : Prop :=
  ∀ (x y : Nibble) (s : State), decodeWord (wordXYN 0x8#4 x y 0x5#4) = some (.subReg x y) ∧
    ∃ t, exec (.subReg x y) s = .next t ∧
      (x ≠ 15#4 → (t.reg x).toNat = if (s.reg x).toNat ≥ (s.reg y).toNat then (s.reg x).toNat - (s.reg y).toNat
        else (s.reg x).toNat + 256 - (s.reg y).toNat) ∧
      (t.reg 15#4).toNat = (if (s.reg x).toNat ≥ (s.reg y).toNat then 1 else 0) ∧
      regsKeptBut [x, 15#4] s t ∧ pcPlus 2 s t ∧ keepsAllBut [.registers] s t

/-- R137: the reversed difference modulo 256, and VF is 1 only where `V[y]` is strictly greater. -/
def Obligations.SubnRegSetsStrictlyGreater : Prop :=
  ∀ (x y : Nibble) (s : State), decodeWord (wordXYN 0x8#4 x y 0x7#4) = some (.subnReg x y) ∧
    ∃ t, exec (.subnReg x y) s = .next t ∧
      (x ≠ 15#4 → (t.reg x).toNat = if (s.reg y).toNat ≥ (s.reg x).toNat then (s.reg y).toNat - (s.reg x).toNat
        else (s.reg y).toNat + 256 - (s.reg x).toNat) ∧
      (t.reg 15#4).toNat = (if (s.reg y).toNat > (s.reg x).toNat then 1 else 0) ∧
      regsKeptBut [x, 15#4] s t ∧ pcPlus 2 s t ∧ keepsAllBut [.registers] s t

/-- R136, R138: `V[x]` shifted by one in place whatever `y` is, and VF is the bit shifted out. -/
def Obligations.ShiftsCatchTheBitShiftedOut : Prop :=
  ∀ (x y : Nibble) (s : State),
    decodeWord (wordXYN 0x8#4 x y 0x6#4) = some (.shiftRight x y) ∧
    decodeWord (wordXYN 0x8#4 x y 0xE#4) = some (.shiftLeft x y) ∧
    (∃ t, exec (.shiftRight x y) s = .next t ∧ (x ≠ 15#4 → (t.reg x).toNat = (s.reg x).toNat / 2) ∧
      (t.reg 15#4).toNat = (s.reg x).toNat % 2 ∧
      regsKeptBut [x, 15#4] s t ∧ pcPlus 2 s t ∧ keepsAllBut [.registers] s t) ∧
    (∃ t, exec (.shiftLeft x y) s = .next t ∧ (x ≠ 15#4 → (t.reg x).toNat = 2 * (s.reg x).toNat % 256) ∧
      (t.reg 15#4).toNat = (s.reg x).toNat / 128 ∧
      regsKeptBut [x, 15#4] s t ∧ pcPlus 2 s t ∧ keepsAllBut [.registers] s t)

/-- R140 (the write order is the spec's decision D3), the last row and the values below the table: with `x = y = 15` the
flag, computed from the old VF, is what VF holds. -/
def Obligations.FlagSurvivesWhenVfIsBothOperands : Prop :=
  ∀ s : State,
    (∃ t, exec (.addReg 15#4 15#4) s = .next t ∧ (t.reg 15#4).toNat = if (s.reg 15#4).toNat ≥ 128 then 1 else 0) ∧
    (∃ t, exec (.subReg 15#4 15#4) s = .next t ∧ (t.reg 15#4).toNat = 1) ∧
    (∃ t, exec (.subnReg 15#4 15#4) s = .next t ∧ (t.reg 15#4).toNat = 0) ∧
    (∃ t, exec (.shiftRight 15#4 15#4) s = .next t ∧ (t.reg 15#4).toNat = (s.reg 15#4).toNat % 2) ∧
    (∃ t, exec (.shiftLeft 15#4 15#4) s = .next t ∧ (t.reg 15#4).toNat = (s.reg 15#4).toNat / 128)

/-! ### Index, computed jump, random -/

/-- R150 (the formula is the spec's, from general knowledge). -/
def Obligations.LoadISetsTheAddressRegister : Prop :=
  ∀ (nnn : Addr12) (s : State), decodeWord (wordNNN 0xA#4 nnn) = some (.loadI nnn) ∧
    ∃ t, exec (.loadI nnn) s = .next t ∧ t.i.toNat = nnn.toNat ∧ pcPlus 2 s t ∧ keepsAllBut [.index] s t

/-- R151 (the formula is the spec's, from general knowledge): not reduced to 12 bits. -/
def Obligations.JumpPlusV0AddsV0Unreduced : Prop :=
  ∀ (nnn : Addr12) (s : State), decodeWord (wordNNN 0xB#4 nnn) = some (.jumpPlusV0 nnn) ∧
    ∃ t, exec (.jumpPlusV0 nnn) s = .next t ∧ t.pc.toNat = nnn.toNat + (s.reg 0#4).toNat ∧ keepsAllBut [] s t

/-- What R152 says, for every random byte: the byte masked, and what that gives whatever the byte is. That the byte is
`Config.randomByte` of the counter `draws`, and that the counter advances by one, is the model's choice (log entry 1): the spec
has the byte come from outside, and knows no counter. -/
def Obligations.RandomAndMaskSetsNoBitOutsideTheMask : Prop :=
  ∀ (x : Nibble) (kk : Byte) (s : State), decodeWord (wordXKK 0xC#4 x kk) = some (.randomAndMask x kk) ∧
    ∃ t, exec (.randomAndMask x kk) s = .next t ∧ t.reg x = Config.randomByte s.draws &&& kk ∧
      t.reg x &&& ~~~kk = 0#8 ∧ (t.reg x).toNat ≤ kk.toNat ∧ (kk = 0x00#8 → t.reg x = 0#8) ∧
      (kk = 0xFF#8 → t.reg x = Config.randomByte s.draws) ∧ t.draws = s.draws + 1 ∧
      regsKeptBut [x] s t ∧ pcPlus 2 s t ∧ keepsAllBut [.registers, .draws] s t

/-! ### The sprite blitter -/

/-- R164, on the pixels R160 gives (the bit order is the spec's, from general knowledge): where the sprite fits, or has no
rows, every pixel is XORed with its sprite bit, and VF is 1 exactly where some pixel went from 1 to 0. -/
def Obligations.DrawSpriteXorsAndReportsErasure : Prop :=
  ∀ (x y n : Nibble) (s : State), decodeWord (wordXYN 0xD#4 x y n) = some (.drawSprite x y n) ∧
    (n.toNat = 0 ∨ (s.i.toNat + n.toNat ≤ 4096 ∧ (s.reg x).toNat % 64 ≤ 56 ∧ (s.reg y).toNat % 32 + n.toNat ≤ 32) →
      ∃ t, exec (.drawSprite x y n) s = .next t ∧
        (∀ r c, r < 32 → c < 64 → t.pixel r c =
          (s.pixel r c ^^ s.spriteBit ((s.reg x).toNat % 64) ((s.reg y).toNat % 32) n.toNat r c)) ∧
        ((t.reg 15#4).toNat = 0 ∨ (t.reg 15#4).toNat = 1) ∧
        ((t.reg 15#4).toNat = 1 ↔ ∃ r c, r < 32 ∧ c < 64 ∧ s.pixel r c = true ∧ t.pixel r c = false) ∧
        regsKeptBut [15#4] s t ∧ pcPlus 2 s t ∧ keepsAllBut [.registers, .display] s t)

/-- R162 (the spec's decision D24), and the display fault of R161 (D19): each violation by itself, and memory first where both
are present. -/
def Obligations.DrawSpriteFaultsOutsideMemoryOrGrid : Prop :=
  ∀ (x y n : Nibble) (s : State), 1 ≤ n.toNat →
    (s.i.toNat + n.toNat - 1 ≥ 4096 → exec (.drawSprite x y n) s = .fault (.memoryOutOfBounds (max s.i.toNat 4096))) ∧
    (s.i.toNat + n.toNat - 1 < 4096 → ((s.reg x).toNat % 64 > 56 ∨ (s.reg y).toNat % 32 + n.toNat > 32) →
      exec (.drawSprite x y n) s =
        .fault (.displayOutOfBounds ((s.reg x).toNat % 64) ((s.reg y).toNat % 32) n.toNat))

/-- The double-draw law the spec derives as R167: drawing again from any state with the same display, `I`, memory and origin
registers restores every pixel, and reports an erasure exactly where the first draw set some pixel. -/
def Obligations.DrawingTwiceRestoresTheDisplay : Prop :=
  ∀ (x y n : Nibble) (s t u : State), exec (.drawSprite x y n) s = .next t →
    (∀ r c, r < 32 → c < 64 → u.pixel r c = t.pixel r c) → u.i = s.i → (∀ a, u.byteAt a = s.byteAt a) →
    u.reg x = s.reg x → u.reg y = s.reg y →
    ∃ w, exec (.drawSprite x y n) u = .next w ∧ (∀ r c, r < 32 → c < 64 → w.pixel r c = s.pixel r c) ∧
      ((w.reg 15#4).toNat = 1 ↔ ∃ r c, r < 32 ∧ c < 64 ∧ s.pixel r c = false ∧ t.pixel r c = true)

/-- R160, with the fault conditions of R161 and R162 (the spec's decisions D19, D24; the bit order is D16): the blitter is the
pseudocode, pixel by pixel in its two loops, with the same display, the same VF and nothing else written. -/
def Obligations.DrawSpriteRefinesThePixelLoops : Prop :=
  ∀ (x y n : Nibble) (s : State), decodeWord (wordXYN 0xD#4 x y n) = some (.drawSprite x y n) ∧
    (1 ≤ n.toNat ∧ s.i.toNat + n.toNat - 1 ≥ 4096 →
      exec (.drawSprite x y n) s = .fault (.memoryOutOfBounds (max s.i.toNat 4096))) ∧
    (¬(1 ≤ n.toNat ∧ s.i.toNat + n.toNat - 1 ≥ 4096) →
      1 ≤ n.toNat ∧ ((s.reg x).toNat % 64 + 7 > 63 ∨ (s.reg y).toNat % 32 + n.toNat - 1 > 31) →
      exec (.drawSprite x y n) s =
        .fault (.displayOutOfBounds ((s.reg x).toNat % 64) ((s.reg y).toNat % 32) n.toNat)) ∧
    (¬(1 ≤ n.toNat ∧ s.i.toNat + n.toNat - 1 ≥ 4096) →
      ¬(1 ≤ n.toNat ∧ ((s.reg x).toNat % 64 + 7 > 63 ∨ (s.reg y).toNat % 32 + n.toNat - 1 > 31)) →
      exec (.drawSprite x y n) s = .next
        ((((drawLoops s ((s.reg x).toNat % 64) ((s.reg y).toNat % 32) n.toNat).1).setReg 15#4
          (if (drawLoops s ((s.reg x).toNat % 64) ((s.reg y).toNat % 32) n.toNat).2 then 1#8 else 0#8)).setPc (s.pc + 2#16)))

/-! ### Keypad -/

/-- R170, R171 (the fault is the spec's decision D12). -/
def Obligations.KeySkipsReadTheKeyOfVx : Prop :=
  ∀ (x : Nibble) (s : State),
    decodeWord (wordXKK 0xE#4 x 0x9E#8) = some (.skipIfKeyPressed x) ∧
    decodeWord (wordXKK 0xE#4 x 0xA1#8) = some (.skipIfKeyNotPressed x) ∧
    (∀ k : Nibble, (s.reg x).toNat = k.toNat →
      (∃ t, exec (.skipIfKeyPressed x) s = .next t ∧ keepsAllBut [] s t ∧
        (s.keyAt k = true → pcPlus 4 s t) ∧ (s.keyAt k = false → pcPlus 2 s t)) ∧
      (∃ t, exec (.skipIfKeyNotPressed x) s = .next t ∧ keepsAllBut [] s t ∧
        (s.keyAt k = false → pcPlus 4 s t) ∧ (s.keyAt k = true → pcPlus 2 s t))) ∧
    ((s.reg x).toNat > 15 → exec (.skipIfKeyPressed x) s = .fault (.keyIndexOutOfRange (s.reg x)) ∧
      exec (.skipIfKeyNotPressed x) s = .fault (.keyIndexOutOfRange (s.reg x)))

/-- R172 (the choices are the spec's decision D13): the smallest pressed key, or no state changes and the outcome is Ok. -/
def Obligations.KeyWaitTakesTheSmallestPressedKey : Prop :=
  ∀ (x : Nibble) (s : State), decodeWord (wordXKK 0xF#4 x 0x0A#8) = some (.loadVxBlockingOnKey x) ∧
    (∀ k : Nibble, s.keyAt k = true → (∀ j : Nibble, j.toNat < k.toNat → s.keyAt j = false) →
      ∃ t, exec (.loadVxBlockingOnKey x) s = .next t ∧ (t.reg x).toNat = k.toNat ∧ regsKeptBut [x] s t ∧
        pcPlus 2 s t ∧ keepsAllBut [.registers] s t) ∧
    ((∀ k : Nibble, s.keyAt k = false) → exec (.loadVxBlockingOnKey x) s = .next s)

/-! ### Timers -/

/-- R180, R181, R182. -/
def Obligations.TimerLoadsCopyBetweenVxAndTimers : Prop :=
  ∀ (x : Nibble) (s : State),
    decodeWord (wordXKK 0xF#4 x 0x07#8) = some (.loadVxFromDelayTimer x) ∧
    decodeWord (wordXKK 0xF#4 x 0x15#8) = some (.loadDelayTimer x) ∧
    decodeWord (wordXKK 0xF#4 x 0x18#8) = some (.loadSoundTimer x) ∧
    (∃ t, exec (.loadVxFromDelayTimer x) s = .next t ∧ t.reg x = s.dt ∧ regsKeptBut [x] s t ∧ pcPlus 2 s t ∧
      keepsAllBut [.registers] s t) ∧
    (∃ t, exec (.loadDelayTimer x) s = .next t ∧ t.dt = s.reg x ∧ pcPlus 2 s t ∧ keepsAllBut [.delayTimer] s t) ∧
    (∃ t, exec (.loadSoundTimer x) s = .next t ∧ t.st = s.reg x ∧ pcPlus 2 s t ∧ keepsAllBut [.soundTimer] s t)

/-! ### Index arithmetic and memory transfer -/

/-- R190 (the spec's decision D10), R191 (the parameters are the spec's defaults, D15): neither masks, checks or touches
VF. -/
def Obligations.IndexArithmeticIsUncheckedAndFlagless : Prop :=
  ∀ (x : Nibble) (s : State),
    decodeWord (wordXKK 0xF#4 x 0x1E#8) = some (.addToI x) ∧ decodeWord (wordXKK 0xF#4 x 0x29#8) = some (.loadFontAddress x) ∧
    (∃ t, exec (.addToI x) s = .next t ∧ t.i.toNat = (s.i.toNat + (s.reg x).toNat) % 65536 ∧ pcPlus 2 s t ∧
      keepsAllBut [.index] s t) ∧
    (∃ t, exec (.loadFontAddress x) s = .next t ∧ t.i.toNat = fontGlyphBase + fontGlyphStride * (s.reg x).toNat ∧
      t.i.toNat = 5 * (s.reg x).toNat ∧ pcPlus 2 s t ∧ keepsAllBut [.index] s t)

/-- R192: the three digits at `I`, `I + 1`, `I + 2` and no other byte, or the fault of the lowest offending address. -/
def Obligations.StoreBcdWritesThreeDigits : Prop :=
  ∀ (x : Nibble) (s : State), decodeWord (wordXKK 0xF#4 x 0x33#8) = some (.storeBcd x) ∧
    (s.i.toNat + 2 < 4096 → ∃ t, exec (.storeBcd x) s = .next t ∧
      (t.byteAt s.i.toNat).toNat = (s.reg x).toNat / 100 ∧
      (t.byteAt (s.i.toNat + 1)).toNat = (s.reg x).toNat / 10 % 10 ∧
      (t.byteAt (s.i.toNat + 2)).toNat = (s.reg x).toNat % 10 ∧
      (∀ a, a < s.i.toNat ∨ s.i.toNat + 2 < a → t.byteAt a = s.byteAt a) ∧
      pcPlus 2 s t ∧ keepsAllBut [.memory] s t) ∧
    (s.i.toNat + 2 ≥ 4096 → exec (.storeBcd x) s = .fault (.memoryOutOfBounds (max s.i.toNat 4096)))

/-- R193 (inclusive, and `I` unchanged: the spec's decision D11). -/
def Obligations.StoreBlockWritesV0ToVx : Prop :=
  ∀ (x : Nibble) (s : State), decodeWord (wordXKK 0xF#4 x 0x55#8) = some (.storeBlock x) ∧
    (s.i.toNat + x.toNat < 4096 → ∃ t, exec (.storeBlock x) s = .next t ∧
      (∀ z : Nibble, z.toNat ≤ x.toNat → t.byteAt (s.i.toNat + z.toNat) = s.reg z) ∧
      (∀ a, a < s.i.toNat ∨ s.i.toNat + x.toNat < a → t.byteAt a = s.byteAt a) ∧
      pcPlus 2 s t ∧ keepsAllBut [.memory] s t) ∧
    (s.i.toNat + x.toNat ≥ 4096 → exec (.storeBlock x) s = .fault (.memoryOutOfBounds (max s.i.toNat 4096)))

/-- R194 (inclusive, and `I` unchanged: the spec's decision D11). -/
def Obligations.LoadBlockReadsV0ToVx : Prop :=
  ∀ (x : Nibble) (s : State), decodeWord (wordXKK 0xF#4 x 0x65#8) = some (.loadBlock x) ∧
    (s.i.toNat + x.toNat < 4096 → ∃ t, exec (.loadBlock x) s = .next t ∧
      (∀ z : Nibble, z.toNat ≤ x.toNat → t.reg z = s.byteAt (s.i.toNat + z.toNat)) ∧
      (∀ z : Nibble, z.toNat > x.toNat → t.reg z = s.reg z) ∧
      pcPlus 2 s t ∧ keepsAllBut [.registers] s t) ∧
    (s.i.toNat + x.toNat ≥ 4096 → exec (.loadBlock x) s = .fault (.memoryOutOfBounds (max s.i.toNat 4096)))

/-- The round-trip law the spec derives as R196: after a store, from any state with the same `I` and the stored bytes still
in place, a load of the same block brings back `V[0]` to `V[x]` as they were at the store. -/
def Obligations.LoadBlockUndoesStoreBlock : Prop :=
  ∀ (x : Nibble) (s t u : State), exec (.storeBlock x) s = .next t → u.i = s.i →
    (∀ a, s.i.toNat ≤ a → a ≤ s.i.toNat + x.toNat → u.byteAt a = t.byteAt a) →
    ∃ w, exec (.loadBlock x) u = .next w ∧ ∀ z : Nibble, z.toNat ≤ x.toNat → w.reg z = s.reg z

/-! ### Every instruction at once -/

/-- An instruction changes no kind of state but those the spec names it a writer of. Model's table `changes`, read from R24,
R28 to R31, R33, R34, R56. -/
def Obligations.EveryInstructionKeepsWhatItDoesNotWrite : Prop :=
  ∀ (i : Instr) (s t : State), exec i s = .next t → keepsAllBut (changes i) s t

/-- R22: each of the six flag writers leaves in VF what the table gives it, 0 or 1, and no other instruction writes VF
unless VF is its destination. -/
def Obligations.OnlySixInstructionsWriteVfAsAFlag : Prop :=
  ∀ (i : Instr) (s t : State), exec i s = .next t → vfAsTable s t i ∧
    (writesFlag i = true → (t.reg 15#4).toNat = 0 ∨ (t.reg 15#4).toNat = 1) ∧
    (writesFlag i = false → writesOrdinary 15#4 i = false → t.reg 15#4 = s.reg 15#4)

/-- The write rows of the access table of R24: a register that is neither a destination nor VF as the flag is kept. -/
def Obligations.RegistersAreWrittenAsTheAccessTableSays : Prop :=
  ∀ (i : Instr) (s t : State) (z : Nibble), exec i s = .next t → writesOrdinary z i = false →
    (z = 15#4 → writesFlag i = false) → t.reg z = s.reg z

/-- R26: `pc` after every instruction, and after every fault. -/
def Obligations.PcAdvancesAsTheTableSays : Prop :=
  (∀ (i : Instr) (s t : State), exec i s = .next t → pcAsTable s t i) ∧
  (∀ (s : State) (f : Fault), step s = .fault f → s.stepOp.1.pc = s.pc)

/-- No step is refused: every instruction has its meaning (30_encoding.md R75, R78: a word is an instruction or unknown). -/
def Obligations.NoStepIsRefused : Prop :=
  ∀ (s : State) (r : Refusal), step s ≠ .refused r

/-! ### Decoding -/

/-- Decoding an instruction's word gives the instruction back, every operand at every value (R71, R72, R75). -/
def Obligations.DecodeUndoesEncode : Prop :=
  ∀ i : Instr, decodeWord (encode i) = some i

/-- A word that decodes is the word of the instruction it decodes to: no word is decoded that the table does not give, and
no bit of it is dropped, the ignored `y` of the shifts included (R72, R75, R78). -/
def Obligations.EncodeUndoesDecode : Prop :=
  ∀ (w : Word) (i : Instr), decodeWord w = some i → encode i = w

/-- R74: the rows are disjoint, a word decodes to the instruction of the row it selects, and to none where it selects
none. -/
def Obligations.DecodingFollowsTheMasks : Prop :=
  (∀ (w : Word) (a b : OpcodeRow), a ∈ opcodeTable → b ∈ opcodeTable → a.selects w = true → b.selects w = true → a = b) ∧
  (∀ (w : Word) (i : Instr), decodeWord w = some i → ∃ r ∈ opcodeTable, r.selects w = true ∧ r.mnemonic = i.mnemonic) ∧
  (∀ w : Word, decodeWord w = none ↔ ∀ r ∈ opcodeTable, r.selects w = false)

/-- The unknown words class by class, as the table of R77 lists them. -/
def Obligations.UnknownWordsAreThoseListed : Prop :=
  ∀ w : Word, decodeWord w = none ↔
    (opClass w = 0x0#4 ∧ w ≠ 0x00E0#16 ∧ w ≠ 0x00EE#16) ∨
    (opClass w = 0x5#4 ∧ opN w ≠ 0x0#4) ∨
    (opClass w = 0x8#4 ∧ opN w ∈ [0x8#4, 0x9#4, 0xA#4, 0xB#4, 0xC#4, 0xD#4, 0xF#4]) ∨
    (opClass w = 0x9#4 ∧ opN w ≠ 0x0#4) ∨
    (opClass w = 0xE#4 ∧ opKK w ∉ [0x9E#8, 0xA1#8]) ∨
    (opClass w = 0xF#4 ∧ opKK w ∉ [0x07#8, 0x0A#8, 0x15#8, 0x18#8, 0x1E#8, 0x29#8, 0x33#8, 0x55#8, 0x65#8])

/-- R82: the three words the source prints, and one word of every other family as its file's example gives it. -/
def Obligations.PrintedWordsDecode : Prop :=
  decodeWord 0x6005#16 = some (.loadByte 0x0#4 0x05#8) ∧ decodeWord 0x600A#16 = some (.loadByte 0x0#4 0x0A#8) ∧
  decodeWord 0x8014#16 = some (.addReg 0x0#4 0x1#4) ∧ decodeWord 0x2300#16 = some (.call 0x300#12) ∧
  decodeWord 0x332A#16 = some (.skipIfEqualByte 0x3#4 0x2A#8) ∧ decodeWord 0xA2F0#16 = some (.loadI 0x2F0#12) ∧
  decodeWord 0xD012#16 = some (.drawSprite 0x0#4 0x1#4 0x2#4) ∧ decodeWord 0xE29E#16 = some (.skipIfKeyPressed 0x2#4) ∧
  decodeWord 0xF315#16 = some (.loadDelayTimer 0x3#4) ∧ decodeWord 0xF155#16 = some (.storeBlock 0x1#4)

/-! ### Memory, fetch, step -/

/-- R51, and the primitive that R52 opens with (the fault's kind is the spec's decision D7): the byte, or the fault; a write
changes exactly the addressed byte. -/
def Obligations.MemoryPrimitivesCheckTheAddress : Prop :=
  ∀ (s : State) (a : Nat) (v : Byte),
    (a ≤ 4095 → s.memRead a = .ok (s.byteAt a) ∧ ∃ t, s.memWrite a v = .ok t ∧ t.byteAt a = v ∧
      (∀ b, b ≠ a → t.byteAt b = s.byteAt b) ∧ t.pc = s.pc ∧ keepsAllBut [.memory] s t) ∧
    (a ≥ 4096 → s.memRead a = .error (.memoryOutOfBounds a) ∧ s.memWrite a v = .error (.memoryOutOfBounds a))

/-- R53: big-endian, and the fault of the first byte that does not exist. -/
def Obligations.FetchIsBigEndianAndChecked : Prop :=
  ∀ s : State,
    (s.pc.toNat + 1 ≤ 4095 → ∃ op, s.fetch = .ok op ∧
      op.toNat = 256 * (s.byteAt s.pc.toNat).toNat + (s.byteAt (s.pc.toNat + 1)).toNat) ∧
    (s.pc.toNat = 0xFFF → s.fetch = .error (.memoryOutOfBounds 0x1000)) ∧
    (s.pc.toNat > 4095 → s.fetch = .error (.memoryOutOfBounds s.pc.toNat))

/-- What the spec derives as R64: a fetch from inside a block just stored gets the stored registers. -/
def Obligations.FetchSeesTheStoreAtOnce : Prop :=
  ∀ (x z z' : Nibble) (s t : State), exec (.storeBlock x) s = .next t → z'.toNat = z.toNat + 1 → z'.toNat ≤ x.toNat →
    t.pc.toNat = s.i.toNat + z.toNat → t.fetch = .ok (wordOfBytes (s.reg z) (s.reg z'))

/-- The step procedure of R201: where the bytes at `pc` decode to a well-formed instruction, the step is that instruction
on that state, with nothing before or after it. -/
def Obligations.StepRunsTheDecodedInstruction : Prop :=
  ∀ (s : State) (i : Instr), s.pc.toNat + 1 < 4096 →
    decodeBytes [s.byteAt s.pc.toNat, s.byteAt (s.pc.toNat + 1)] = .ok (i, []) → i.wellFormed = true → step s = exec i s

/-- R230 (the spec's decision D24): the fetch fault, then the unknown opcode, then the instruction's own. -/
def Obligations.FaultsComeInOrder : Prop :=
  ∀ s : State,
    (∀ f, s.fetch = .error f → step s = .fault f) ∧
    (∀ op, s.fetch = .ok op → decodeWord op = none → step s = .fault (.unknownOpcode op)) ∧
    (∀ i f, s.fetches i → exec i s = .fault f → step s = .fault f) ∧
    (∀ x y n : Nibble, s.fetches (.drawSprite x y n) → 1 ≤ n.toNat → s.i.toNat + n.toNat - 1 ≥ 4096 →
      ((s.reg x).toNat % 64 > 56 ∨ (s.reg y).toNat % 32 + n.toNat > 32) →
      step s = .fault (.memoryOutOfBounds (max s.i.toNat 4096)))

/-- R229 (the spec's decision D6): the state after a fault is the state before it, every field of it. -/
def Obligations.FaultsLeaveNoTrace : Prop :=
  ∀ (s : State) (f : Fault), step s = .fault f → s.stepOp = (s, .execError f)

/-- The two stack faults and the key fault, exactly when R223, R224 and R227 say. -/
def Obligations.StackAndKeyFaultsExactly : Prop :=
  ∀ s : State,
    (∀ a, step s = .fault (.stackOverflow a) ↔ (∃ nnn, s.fetches (.call nnn)) ∧ s.sp.toNat = 15 ∧ a = s.pc) ∧
    (∀ a, step s = .fault (.stackUnderflow a) ↔ s.fetches .ret ∧ s.sp.toNat = 0 ∧ a = s.pc) ∧
    (∀ k, step s = .fault (.keyIndexOutOfRange k) ↔
      ∃ x, (s.fetches (.skipIfKeyPressed x) ∨ s.fetches (.skipIfKeyNotPressed x)) ∧ (s.reg x).toNat > 15 ∧ k = s.reg x)

/-- The display fault and the memory fault, exactly when R225 and R226 say, and the unknown opcode, for exactly the words no row
of the opcode table matches (R222), each with the information R221 records. -/
def Obligations.OpcodeDisplayAndMemoryFaultsExactly : Prop :=
  ∀ s : State,
    (∀ op, step s = .fault (.unknownOpcode op) ↔ s.fetch = .ok op ∧ ∀ r ∈ opcodeTable, r.selects op = false) ∧
    (∀ ox oy k, step s = .fault (.displayOutOfBounds ox oy k) ↔ ∃ x y n : Nibble, s.fetches (.drawSprite x y n) ∧
      1 ≤ n.toNat ∧ s.i.toNat + n.toNat ≤ 4096 ∧ ((s.reg x).toNat % 64 > 56 ∨ (s.reg y).toNat % 32 + n.toNat > 32) ∧
      ox = (s.reg x).toNat % 64 ∧ oy = (s.reg y).toNat % 32 ∧ k = n.toNat) ∧
    (∀ a, step s = .fault (.memoryOutOfBounds a) ↔
      (s.pc.toNat ≥ 0xFFF ∧ a = max s.pc.toNat 4096) ∨
      (a = max s.i.toNat 4096 ∧
        ((∃ x y n : Nibble, s.fetches (.drawSprite x y n) ∧ 1 ≤ n.toNat ∧ s.i.toNat + n.toNat > 4096) ∨
         (∃ x, s.fetches (.storeBcd x) ∧ s.i.toNat + 2 ≥ 4096) ∨
         (∃ x, (s.fetches (.storeBlock x) ∨ s.fetches (.loadBlock x)) ∧ s.i.toNat + x.toNat ≥ 4096))))

/-- A fault that is not fatal is a standstill (R232, R271): whatever steps, ticks, key changes and reads follow, the next step
faults in the same way and `pc` has not moved. Of a memory or display fault, which the source calls fatal, R232 asks that no
claim be made past it. That a schedule which steps into one ends there with that fault and leaves no state, whatever operations
follow, a `load-image` or a `reset` included, is the model's choice (log entry 11): the spec has `reset` end any fault (R260),
and the model says that of a schedule that starts at the reset. -/
def Obligations.AFaultIsAStandstill : Prop :=
  ∀ (ops : List HostOp) (s : State) (f : Fault), step s = .fault f →
    (f.isFatal = true → s.runSchedule (.step :: ops) = .error f) ∧
    (f.isFatal = false → (∀ op ∈ ops, op.endsStandstill = false) →
      ∃ t, s.runSchedule ops = .ok t ∧ step t = .fault f ∧ t.pc = s.pc)

/-! ### What does not matter to a step -/

/-- No instruction reads ST (R31): two states that differ in ST alone step alike, to states that differ at most in ST. -/
def Obligations.NoStepReadsTheSoundTimer : Prop :=
  ∀ (s : State) (b : Byte),
    (∀ t, step s = .next t → ∃ c, step (s.setSt b) = .next (t.setSt c)) ∧
    (∀ f, step s = .fault f → step (s.setSt b) = .fault f)

/-- A step reads `Key` only for the three keypad instructions (R201): for any other, two states that differ in the keys
alone go on alike, to states that differ in the keys alone. -/
def Obligations.OnlyKeypadInstructionsReadKeys : Prop :=
  ∀ (i : Instr) (s : State) (keys : Vector Bool 16), readsKeys i = false →
    (∀ t, exec i s = .next t → exec i { s with keys := keys } = .next { t with keys := keys }) ∧
    (∀ f, exec i s = .fault f → exec i { s with keys := keys } = .fault f)

/-! ### Host operations -/

/-- R40: the state after construction, every item with the value of R39 (that the stack is cleared is the spec's decision D4)
and every key up. Memory is FONT_IMAGE and zeros; the image is the default that the model holds at `State.reset` (log entry 2). -/
def Obligations.ResetStateIsAsTheTableSays : Prop :=
  (∀ z, State.reset.reg z = 0#8) ∧ State.reset.i = 0#16 ∧ State.reset.pc = 0x200#16 ∧ State.reset.sp = 0#4 ∧
  (∀ k, State.reset.stackAt k = 0#16) ∧ State.reset.dt = 0#8 ∧ State.reset.st = 0#8 ∧
  (∀ r c, r < 32 → c < 64 → State.reset.pixel r c = false) ∧ (∀ k, State.reset.keyAt k = false) ∧
  (∀ a (h : a < State.reset.fontImage.length), State.reset.byteAt a = State.reset.fontImage[a]) ∧
  (∀ a, State.reset.fontImage.length ≤ a → State.reset.byteAt a = 0#8)

/-- R260, R39 (that the stack is cleared and `Key` is kept are the spec's decisions D4, D23): from every state whose FONT_IMAGE
is within its bound, reset gives the values of R39 and leaves the keys; a second reset changes nothing. -/
def Obligations.ResetOperationKeepsOnlyTheKeys : Prop :=
  ∀ s : State, fontImageFits s.fontImage = true →
    (s.apply .reset).2 = .ok ∧ (∀ z, (s.apply .reset).1.reg z = 0#8) ∧ (s.apply .reset).1.i = 0#16 ∧
    (s.apply .reset).1.pc = 0x200#16 ∧ (s.apply .reset).1.sp = 0#4 ∧ (∀ k, (s.apply .reset).1.stackAt k = 0#16) ∧
    (s.apply .reset).1.dt = 0#8 ∧ (s.apply .reset).1.st = 0#8 ∧
    (∀ r c, r < 32 → c < 64 → (s.apply .reset).1.pixel r c = false) ∧
    (∀ k, (s.apply .reset).1.keyAt k = s.keyAt k) ∧
    (∀ a (h : a < s.fontImage.length), (s.apply .reset).1.byteAt a = s.fontImage[a]) ∧
    (∀ a, s.fontImage.length ≤ a → (s.apply .reset).1.byteAt a = 0#8) ∧
    s.runSchedule [.reset, .reset] = s.runSchedule [.reset]

/-- R202 (the spec's decision D22): one check; the bytes at `base`, every other byte and everything else unchanged. -/
def Obligations.LoadImageCopiesOrRefusesWhole : Prop :=
  ∀ (bytes : List Byte) (base : Nat) (s : State),
    (base + bytes.length > 4096 → s.apply (.loadImage bytes base) = (s, .imageTooLarge)) ∧
    (base + bytes.length ≤ 4096 → ∃ t, s.apply (.loadImage bytes base) = (t, .ok) ∧
      (∀ k (h : k < bytes.length), t.byteAt (base + k) = bytes[k]) ∧
      (∀ a, a < base ∨ base + bytes.length ≤ a → t.byteAt a = s.byteAt a) ∧ t.pc = s.pc ∧ keepsAllBut [.memory] s t)

/-- R241: after `n` ticks each timer is `max(v - n, 0)`, and nothing else has changed. -/
def Obligations.TicksCountDownAndStopAtZero : Prop :=
  ∀ (n : Nat) (s : State), (s.apply .tickTimers).2 = .ok ∧
    ∃ t, s.runSchedule (List.replicate n .tickTimers) = .ok t ∧ t.dt.toNat = s.dt.toNat - n ∧
      t.st.toNat = s.st.toNat - n ∧ t.pc = s.pc ∧ keepsAllBut [.delayTimer, .soundTimer] s t

/-- R205, and the accessors R206 lists: set-key sets one key; an accessor answers what the state holds; nothing else
changes. -/
def Obligations.KeysAreSetAndStateIsReadFromOutside : Prop :=
  ∀ s : State,
    (∀ (k : Nibble) (pressed : Bool), ∃ t, s.apply (.setKey k pressed) = (t, .ok) ∧ t.keyAt k = pressed ∧
      (∀ j, j ≠ k → t.keyAt j = s.keyAt j) ∧ t.pc = s.pc ∧ keepsAllBut [.keys] s t) ∧
    (∃ d, s.apply .readDisplay = (s, .displayRead d) ∧ ∀ r c, r < 32 → c < 64 → (rowAt d r).getLsbD c = s.pixel r c) ∧
    (∃ q, s.apply .readRegisters = (s, .registersRead q) ∧ (∀ z : Nibble, q.v[z.toNat]? = some (s.reg z)) ∧ q.i = s.i ∧
      q.pc = s.pc ∧ q.sp = s.sp ∧ q.dt = s.dt ∧ q.st = s.st) ∧
    (∃ e, s.apply .readStack = (s, .stackRead e) ∧ ∀ k : Nibble, e[k.toNat]? = some (s.stackAt k))

/-! ### Invariants -/

/-- The invariant holds after reset. The canonical form of memory in it is the model's own (log entry 9). -/
def Obligations.ResetMeetsTheInvariant : Prop := State.reset.inv = true

/-- Every step keeps the invariant: memory in its canonical form inside the address space, FONT_IMAGE within its bound,
`pc` at most 0x10FE, every stack entry at most 0x1000 (what the spec derives as R27), `stack[0]` never written (R30). The canonical form is the model's own (log entry 9). -/
def Obligations.StepKeepsTheInvariant : Prop :=
  ∀ s t : State, s.inv = true → step s = .next t → t.inv = true

/-- Every operation of the host, in any schedule that leaves a state, keeps the invariant: the canonical form of memory, which
is the model's own (log entry 9), the bound of FONT_IMAGE (R261), and the ranges of R27 and R30. A schedule that steps into a
fatal fault leaves no state (R232, log entry 11). -/
def Obligations.EveryScheduleKeepsTheInvariant : Prop :=
  ∀ (ops : List HostOp) (s t : State), s.inv = true → s.runSchedule ops = .ok t → t.inv = true

/-- A fault state is never final (R232), and at a final state, a jump to its own address (R273, from general knowledge, log
entry 11), a step goes on and changes nothing. -/
def Obligations.AFaultStateIsNeverFinal : Prop :=
  ∀ s : State, (∀ f, step s = .fault f → s.isFinal = false) ∧ (s.isFinal = true → step s = .next s)
end

