-- ==== Sys2Proof/Laws/Decode.lean ====
section
/-! SUPPORT. The fields of a word put together from fields, and a word taken apart and put together again. -/

namespace Sys2Proof

section Fields
variable (c x y n : Nibble) (kk : Byte) (nnn : Addr12)

@[simp] theorem opClass_wordNNN : opClass (wordNNN c nnn) = c := by
  refine BitVec.eq_of_getLsbD_eq fun k hk => ?_
  simp only [opClass, wordNNN, BitVec.getLsbD_extractLsb', BitVec.getLsbD_append, hk]
  interval_cases k <;> rfl

@[simp] theorem opNNN_wordNNN : opNNN (wordNNN c nnn) = nnn := by
  refine BitVec.eq_of_getLsbD_eq fun k hk => ?_
  simp only [opNNN, wordNNN, BitVec.getLsbD_extractLsb', BitVec.getLsbD_append, hk]
  interval_cases k <;> rfl

@[simp] theorem opClass_wordXKK : opClass (wordXKK c x kk) = c := by
  refine BitVec.eq_of_getLsbD_eq fun k hk => ?_
  simp only [opClass, wordXKK, BitVec.getLsbD_extractLsb', BitVec.getLsbD_append, hk]
  interval_cases k <;> rfl

@[simp] theorem opX_wordXKK : opX (wordXKK c x kk) = x := by
  refine BitVec.eq_of_getLsbD_eq fun k hk => ?_
  simp only [opX, wordXKK, BitVec.getLsbD_extractLsb', BitVec.getLsbD_append, hk]
  interval_cases k <;> rfl

@[simp] theorem opKK_wordXKK : opKK (wordXKK c x kk) = kk := by
  refine BitVec.eq_of_getLsbD_eq fun k hk => ?_
  simp only [opKK, wordXKK, BitVec.getLsbD_extractLsb', BitVec.getLsbD_append, hk]
  interval_cases k <;> rfl

@[simp] theorem opClass_wordXYN : opClass (wordXYN c x y n) = c := by
  refine BitVec.eq_of_getLsbD_eq fun k hk => ?_
  simp only [opClass, wordXYN, BitVec.getLsbD_extractLsb', BitVec.getLsbD_append, hk]
  interval_cases k <;> rfl

@[simp] theorem opX_wordXYN : opX (wordXYN c x y n) = x := by
  refine BitVec.eq_of_getLsbD_eq fun k hk => ?_
  simp only [opX, wordXYN, BitVec.getLsbD_extractLsb', BitVec.getLsbD_append, hk]
  interval_cases k <;> rfl

@[simp] theorem opY_wordXYN : opY (wordXYN c x y n) = y := by
  refine BitVec.eq_of_getLsbD_eq fun k hk => ?_
  simp only [opY, wordXYN, BitVec.getLsbD_extractLsb', BitVec.getLsbD_append, hk]
  interval_cases k <;> rfl

@[simp] theorem opN_wordXYN : opN (wordXYN c x y n) = n := by
  refine BitVec.eq_of_getLsbD_eq fun k hk => ?_
  simp only [opN, wordXYN, BitVec.getLsbD_extractLsb', BitVec.getLsbD_append, hk]
  interval_cases k <;> rfl

end Fields

/-- A word is its class and its low 12 bits. -/
theorem wordNNN_fields (w : Word) : wordNNN (opClass w) (opNNN w) = w := by
  refine BitVec.eq_of_getLsbD_eq fun k hk => ?_
  simp only [opClass, opNNN, wordNNN, BitVec.getLsbD_extractLsb', BitVec.getLsbD_append]
  interval_cases k <;> rfl

/-- A word is its class, its `x` and its low byte. -/
theorem wordXKK_fields (w : Word) : wordXKK (opClass w) (opX w) (opKK w) = w := by
  refine BitVec.eq_of_getLsbD_eq fun k hk => ?_
  simp only [opClass, opX, opKK, wordXKK, BitVec.getLsbD_extractLsb', BitVec.getLsbD_append]
  interval_cases k <;> rfl

/-- A word is its four nibbles. -/
theorem wordXYN_fields (w : Word) : wordXYN (opClass w) (opX w) (opY w) (opN w) = w := by
  refine BitVec.eq_of_getLsbD_eq fun k hk => ?_
  simp only [opClass, opX, opY, opN, wordXYN, BitVec.getLsbD_extractLsb', BitVec.getLsbD_append]
  interval_cases k <;> rfl

/-- The two bytes of a word, composed as a fetch composes them, are the word (spec/20_memory.md R53, R54). -/
theorem wordOfBytes_bytesOfWord (w : Word) : wordOfBytes (w.extractLsb' 8 8) (w.extractLsb' 0 8) = w := by
  refine BitVec.eq_of_getLsbD_eq fun k hk => ?_
  simp only [wordOfBytes, BitVec.getLsbD_extractLsb', BitVec.getLsbD_append]
  interval_cases k <;> rfl

/-- The word of two bytes is `256 * high + low` (R53). -/
theorem wordOfBytes_toNat (high low : Byte) : (wordOfBytes high low).toNat = 256 * high.toNat + low.toNat := by
  have := low.isLt
  rw [wordOfBytes, BitVec.toNat_append, ← Nat.shiftLeft_add_eq_or_of_lt low.isLt, Nat.shiftLeft_eq]
  omega

/-- The decoder of table words is the decoder of words. -/
theorem decodeTableWord_eq (nbits w : Nat) : decodeTableWord nbits w = decodeWord (tableWord nbits w) := by
  simp only [decodeTableWord, bytesOfWord, decodeBytes, wordOfBytes_bytesOfWord]
  cases decodeWord (tableWord nbits w) <;> rfl

end Sys2Proof
end

