-- ==== Sys2Proof/Laws/State.lean ====
section
/-! SUPPORT. One lemma per field, and per accessor, per update of the state: later proofs cite these and unfold no record
update. -/

namespace Sys2Proof.Machine

section Setreg
variable (s : State) (x : Nibble) (b : Byte)
@[simp] theorem setReg_v : (s.setReg x b).v = s.v.set x.toNat b x.isLt := rfl
@[simp] theorem setReg_i : (s.setReg x b).i = s.i := rfl
@[simp] theorem setReg_pc : (s.setReg x b).pc = s.pc := rfl
@[simp] theorem setReg_sp : (s.setReg x b).sp = s.sp := rfl
@[simp] theorem setReg_stack : (s.setReg x b).stack = s.stack := rfl
@[simp] theorem setReg_dt : (s.setReg x b).dt = s.dt := rfl
@[simp] theorem setReg_st : (s.setReg x b).st = s.st := rfl
@[simp] theorem setReg_disp : (s.setReg x b).disp = s.disp := rfl
@[simp] theorem setReg_mem : (s.setReg x b).mem = s.mem := rfl
@[simp] theorem setReg_keys : (s.setReg x b).keys = s.keys := rfl
@[simp] theorem setReg_draws : (s.setReg x b).draws = s.draws := rfl
@[simp] theorem setReg_fontImage : (s.setReg x b).fontImage = s.fontImage := rfl
@[simp] theorem setReg_stackAt (j : Nibble) : (s.setReg x b).stackAt j = s.stackAt j := rfl
@[simp] theorem setReg_keyAt (j : Nibble) : (s.setReg x b).keyAt j = s.keyAt j := rfl
@[simp] theorem setReg_pixel (r col : Nat) : (s.setReg x b).pixel r col = s.pixel r col := rfl
@[simp] theorem setReg_byteAt (j : Nat) : (s.setReg x b).byteAt j = s.byteAt j := rfl
@[simp] theorem setReg_draw8 : (s.setReg x b).draw8 = s.draw8 := rfl
@[simp] theorem setReg_lowestKey : (s.setReg x b).lowestKey = s.lowestKey := rfl
@[simp] theorem setReg_fetch : (s.setReg x b).fetch = s.fetch := rfl
end Setreg

section Setpc
variable (s : State) (a : Word)
@[simp] theorem setPc_v : (s.setPc a).v = s.v := rfl
@[simp] theorem setPc_i : (s.setPc a).i = s.i := rfl
@[simp] theorem setPc_pc : (s.setPc a).pc = a := rfl
@[simp] theorem setPc_sp : (s.setPc a).sp = s.sp := rfl
@[simp] theorem setPc_stack : (s.setPc a).stack = s.stack := rfl
@[simp] theorem setPc_dt : (s.setPc a).dt = s.dt := rfl
@[simp] theorem setPc_st : (s.setPc a).st = s.st := rfl
@[simp] theorem setPc_disp : (s.setPc a).disp = s.disp := rfl
@[simp] theorem setPc_mem : (s.setPc a).mem = s.mem := rfl
@[simp] theorem setPc_keys : (s.setPc a).keys = s.keys := rfl
@[simp] theorem setPc_draws : (s.setPc a).draws = s.draws := rfl
@[simp] theorem setPc_fontImage : (s.setPc a).fontImage = s.fontImage := rfl
@[simp] theorem setPc_reg (z : Nibble) : (s.setPc a).reg z = s.reg z := rfl
@[simp] theorem setPc_stackAt (j : Nibble) : (s.setPc a).stackAt j = s.stackAt j := rfl
@[simp] theorem setPc_keyAt (j : Nibble) : (s.setPc a).keyAt j = s.keyAt j := rfl
@[simp] theorem setPc_pixel (r col : Nat) : (s.setPc a).pixel r col = s.pixel r col := rfl
@[simp] theorem setPc_byteAt (j : Nat) : (s.setPc a).byteAt j = s.byteAt j := rfl
@[simp] theorem setPc_draw8 : (s.setPc a).draw8 = s.draw8 := rfl
@[simp] theorem setPc_lowestKey : (s.setPc a).lowestKey = s.lowestKey := rfl
end Setpc

section Advance
variable (s : State)
@[simp] theorem advance_v : (s.advance).v = s.v := rfl
@[simp] theorem advance_i : (s.advance).i = s.i := rfl
@[simp] theorem advance_pc : (s.advance).pc = s.pc + 2#16 := rfl
@[simp] theorem advance_sp : (s.advance).sp = s.sp := rfl
@[simp] theorem advance_stack : (s.advance).stack = s.stack := rfl
@[simp] theorem advance_dt : (s.advance).dt = s.dt := rfl
@[simp] theorem advance_st : (s.advance).st = s.st := rfl
@[simp] theorem advance_disp : (s.advance).disp = s.disp := rfl
@[simp] theorem advance_mem : (s.advance).mem = s.mem := rfl
@[simp] theorem advance_keys : (s.advance).keys = s.keys := rfl
@[simp] theorem advance_draws : (s.advance).draws = s.draws := rfl
@[simp] theorem advance_fontImage : (s.advance).fontImage = s.fontImage := rfl
@[simp] theorem advance_reg (z : Nibble) : (s.advance).reg z = s.reg z := rfl
@[simp] theorem advance_stackAt (j : Nibble) : (s.advance).stackAt j = s.stackAt j := rfl
@[simp] theorem advance_keyAt (j : Nibble) : (s.advance).keyAt j = s.keyAt j := rfl
@[simp] theorem advance_pixel (r col : Nat) : (s.advance).pixel r col = s.pixel r col := rfl
@[simp] theorem advance_byteAt (j : Nat) : (s.advance).byteAt j = s.byteAt j := rfl
@[simp] theorem advance_draw8 : (s.advance).draw8 = s.draw8 := rfl
@[simp] theorem advance_lowestKey : (s.advance).lowestKey = s.lowestKey := rfl
end Advance

section Seti
variable (s : State) (a : Word)
@[simp] theorem setI_v : (s.setI a).v = s.v := rfl
@[simp] theorem setI_i : (s.setI a).i = a := rfl
@[simp] theorem setI_pc : (s.setI a).pc = s.pc := rfl
@[simp] theorem setI_sp : (s.setI a).sp = s.sp := rfl
@[simp] theorem setI_stack : (s.setI a).stack = s.stack := rfl
@[simp] theorem setI_dt : (s.setI a).dt = s.dt := rfl
@[simp] theorem setI_st : (s.setI a).st = s.st := rfl
@[simp] theorem setI_disp : (s.setI a).disp = s.disp := rfl
@[simp] theorem setI_mem : (s.setI a).mem = s.mem := rfl
@[simp] theorem setI_keys : (s.setI a).keys = s.keys := rfl
@[simp] theorem setI_draws : (s.setI a).draws = s.draws := rfl
@[simp] theorem setI_fontImage : (s.setI a).fontImage = s.fontImage := rfl
@[simp] theorem setI_reg (z : Nibble) : (s.setI a).reg z = s.reg z := rfl
@[simp] theorem setI_stackAt (j : Nibble) : (s.setI a).stackAt j = s.stackAt j := rfl
@[simp] theorem setI_keyAt (j : Nibble) : (s.setI a).keyAt j = s.keyAt j := rfl
@[simp] theorem setI_pixel (r col : Nat) : (s.setI a).pixel r col = s.pixel r col := rfl
@[simp] theorem setI_byteAt (j : Nat) : (s.setI a).byteAt j = s.byteAt j := rfl
@[simp] theorem setI_draw8 : (s.setI a).draw8 = s.draw8 := rfl
@[simp] theorem setI_lowestKey : (s.setI a).lowestKey = s.lowestKey := rfl
@[simp] theorem setI_fetch : (s.setI a).fetch = s.fetch := rfl
end Seti

section Setdt
variable (s : State) (b : Byte)
@[simp] theorem setDt_v : (s.setDt b).v = s.v := rfl
@[simp] theorem setDt_i : (s.setDt b).i = s.i := rfl
@[simp] theorem setDt_pc : (s.setDt b).pc = s.pc := rfl
@[simp] theorem setDt_sp : (s.setDt b).sp = s.sp := rfl
@[simp] theorem setDt_stack : (s.setDt b).stack = s.stack := rfl
@[simp] theorem setDt_dt : (s.setDt b).dt = b := rfl
@[simp] theorem setDt_st : (s.setDt b).st = s.st := rfl
@[simp] theorem setDt_disp : (s.setDt b).disp = s.disp := rfl
@[simp] theorem setDt_mem : (s.setDt b).mem = s.mem := rfl
@[simp] theorem setDt_keys : (s.setDt b).keys = s.keys := rfl
@[simp] theorem setDt_draws : (s.setDt b).draws = s.draws := rfl
@[simp] theorem setDt_fontImage : (s.setDt b).fontImage = s.fontImage := rfl
@[simp] theorem setDt_reg (z : Nibble) : (s.setDt b).reg z = s.reg z := rfl
@[simp] theorem setDt_stackAt (j : Nibble) : (s.setDt b).stackAt j = s.stackAt j := rfl
@[simp] theorem setDt_keyAt (j : Nibble) : (s.setDt b).keyAt j = s.keyAt j := rfl
@[simp] theorem setDt_pixel (r col : Nat) : (s.setDt b).pixel r col = s.pixel r col := rfl
@[simp] theorem setDt_byteAt (j : Nat) : (s.setDt b).byteAt j = s.byteAt j := rfl
@[simp] theorem setDt_draw8 : (s.setDt b).draw8 = s.draw8 := rfl
@[simp] theorem setDt_lowestKey : (s.setDt b).lowestKey = s.lowestKey := rfl
@[simp] theorem setDt_fetch : (s.setDt b).fetch = s.fetch := rfl
end Setdt

section Setst
variable (s : State) (b : Byte)
@[simp] theorem setSt_v : (s.setSt b).v = s.v := rfl
@[simp] theorem setSt_i : (s.setSt b).i = s.i := rfl
@[simp] theorem setSt_pc : (s.setSt b).pc = s.pc := rfl
@[simp] theorem setSt_sp : (s.setSt b).sp = s.sp := rfl
@[simp] theorem setSt_stack : (s.setSt b).stack = s.stack := rfl
@[simp] theorem setSt_dt : (s.setSt b).dt = s.dt := rfl
@[simp] theorem setSt_st : (s.setSt b).st = b := rfl
@[simp] theorem setSt_disp : (s.setSt b).disp = s.disp := rfl
@[simp] theorem setSt_mem : (s.setSt b).mem = s.mem := rfl
@[simp] theorem setSt_keys : (s.setSt b).keys = s.keys := rfl
@[simp] theorem setSt_draws : (s.setSt b).draws = s.draws := rfl
@[simp] theorem setSt_fontImage : (s.setSt b).fontImage = s.fontImage := rfl
@[simp] theorem setSt_reg (z : Nibble) : (s.setSt b).reg z = s.reg z := rfl
@[simp] theorem setSt_stackAt (j : Nibble) : (s.setSt b).stackAt j = s.stackAt j := rfl
@[simp] theorem setSt_keyAt (j : Nibble) : (s.setSt b).keyAt j = s.keyAt j := rfl
@[simp] theorem setSt_pixel (r col : Nat) : (s.setSt b).pixel r col = s.pixel r col := rfl
@[simp] theorem setSt_byteAt (j : Nat) : (s.setSt b).byteAt j = s.byteAt j := rfl
@[simp] theorem setSt_draw8 : (s.setSt b).draw8 = s.draw8 := rfl
@[simp] theorem setSt_lowestKey : (s.setSt b).lowestKey = s.lowestKey := rfl
@[simp] theorem setSt_fetch : (s.setSt b).fetch = s.fetch := rfl
end Setst

section Setsp
variable (s : State) (k : Nibble)
@[simp] theorem setSp_v : (s.setSp k).v = s.v := rfl
@[simp] theorem setSp_i : (s.setSp k).i = s.i := rfl
@[simp] theorem setSp_pc : (s.setSp k).pc = s.pc := rfl
@[simp] theorem setSp_sp : (s.setSp k).sp = k := rfl
@[simp] theorem setSp_stack : (s.setSp k).stack = s.stack := rfl
@[simp] theorem setSp_dt : (s.setSp k).dt = s.dt := rfl
@[simp] theorem setSp_st : (s.setSp k).st = s.st := rfl
@[simp] theorem setSp_disp : (s.setSp k).disp = s.disp := rfl
@[simp] theorem setSp_mem : (s.setSp k).mem = s.mem := rfl
@[simp] theorem setSp_keys : (s.setSp k).keys = s.keys := rfl
@[simp] theorem setSp_draws : (s.setSp k).draws = s.draws := rfl
@[simp] theorem setSp_fontImage : (s.setSp k).fontImage = s.fontImage := rfl
@[simp] theorem setSp_reg (z : Nibble) : (s.setSp k).reg z = s.reg z := rfl
@[simp] theorem setSp_stackAt (j : Nibble) : (s.setSp k).stackAt j = s.stackAt j := rfl
@[simp] theorem setSp_keyAt (j : Nibble) : (s.setSp k).keyAt j = s.keyAt j := rfl
@[simp] theorem setSp_pixel (r col : Nat) : (s.setSp k).pixel r col = s.pixel r col := rfl
@[simp] theorem setSp_byteAt (j : Nat) : (s.setSp k).byteAt j = s.byteAt j := rfl
@[simp] theorem setSp_draw8 : (s.setSp k).draw8 = s.draw8 := rfl
@[simp] theorem setSp_lowestKey : (s.setSp k).lowestKey = s.lowestKey := rfl
@[simp] theorem setSp_fetch : (s.setSp k).fetch = s.fetch := rfl
end Setsp

section Setstackat
variable (s : State) (k : Nibble) (a : Word)
@[simp] theorem setStackAt_v : (s.setStackAt k a).v = s.v := rfl
@[simp] theorem setStackAt_i : (s.setStackAt k a).i = s.i := rfl
@[simp] theorem setStackAt_pc : (s.setStackAt k a).pc = s.pc := rfl
@[simp] theorem setStackAt_sp : (s.setStackAt k a).sp = s.sp := rfl
@[simp] theorem setStackAt_stack : (s.setStackAt k a).stack = s.stack.set k.toNat a k.isLt := rfl
@[simp] theorem setStackAt_dt : (s.setStackAt k a).dt = s.dt := rfl
@[simp] theorem setStackAt_st : (s.setStackAt k a).st = s.st := rfl
@[simp] theorem setStackAt_disp : (s.setStackAt k a).disp = s.disp := rfl
@[simp] theorem setStackAt_mem : (s.setStackAt k a).mem = s.mem := rfl
@[simp] theorem setStackAt_keys : (s.setStackAt k a).keys = s.keys := rfl
@[simp] theorem setStackAt_draws : (s.setStackAt k a).draws = s.draws := rfl
@[simp] theorem setStackAt_fontImage : (s.setStackAt k a).fontImage = s.fontImage := rfl
@[simp] theorem setStackAt_reg (z : Nibble) : (s.setStackAt k a).reg z = s.reg z := rfl
@[simp] theorem setStackAt_keyAt (j : Nibble) : (s.setStackAt k a).keyAt j = s.keyAt j := rfl
@[simp] theorem setStackAt_pixel (r col : Nat) : (s.setStackAt k a).pixel r col = s.pixel r col := rfl
@[simp] theorem setStackAt_byteAt (j : Nat) : (s.setStackAt k a).byteAt j = s.byteAt j := rfl
@[simp] theorem setStackAt_draw8 : (s.setStackAt k a).draw8 = s.draw8 := rfl
@[simp] theorem setStackAt_lowestKey : (s.setStackAt k a).lowestKey = s.lowestKey := rfl
@[simp] theorem setStackAt_fetch : (s.setStackAt k a).fetch = s.fetch := rfl
end Setstackat

section Setdisp
variable (s : State) (d : Vector PixelRow 32)
@[simp] theorem setDisp_v : (s.setDisp d).v = s.v := rfl
@[simp] theorem setDisp_i : (s.setDisp d).i = s.i := rfl
@[simp] theorem setDisp_pc : (s.setDisp d).pc = s.pc := rfl
@[simp] theorem setDisp_sp : (s.setDisp d).sp = s.sp := rfl
@[simp] theorem setDisp_stack : (s.setDisp d).stack = s.stack := rfl
@[simp] theorem setDisp_dt : (s.setDisp d).dt = s.dt := rfl
@[simp] theorem setDisp_st : (s.setDisp d).st = s.st := rfl
@[simp] theorem setDisp_disp : (s.setDisp d).disp = d := rfl
@[simp] theorem setDisp_mem : (s.setDisp d).mem = s.mem := rfl
@[simp] theorem setDisp_keys : (s.setDisp d).keys = s.keys := rfl
@[simp] theorem setDisp_draws : (s.setDisp d).draws = s.draws := rfl
@[simp] theorem setDisp_fontImage : (s.setDisp d).fontImage = s.fontImage := rfl
@[simp] theorem setDisp_reg (z : Nibble) : (s.setDisp d).reg z = s.reg z := rfl
@[simp] theorem setDisp_stackAt (j : Nibble) : (s.setDisp d).stackAt j = s.stackAt j := rfl
@[simp] theorem setDisp_keyAt (j : Nibble) : (s.setDisp d).keyAt j = s.keyAt j := rfl
@[simp] theorem setDisp_byteAt (j : Nat) : (s.setDisp d).byteAt j = s.byteAt j := rfl
@[simp] theorem setDisp_draw8 : (s.setDisp d).draw8 = s.draw8 := rfl
@[simp] theorem setDisp_lowestKey : (s.setDisp d).lowestKey = s.lowestKey := rfl
@[simp] theorem setDisp_fetch : (s.setDisp d).fetch = s.fetch := rfl
end Setdisp

section Setkeyat
variable (s : State) (k : Nibble) (p : Bool)
@[simp] theorem setKeyAt_v : (s.setKeyAt k p).v = s.v := rfl
@[simp] theorem setKeyAt_i : (s.setKeyAt k p).i = s.i := rfl
@[simp] theorem setKeyAt_pc : (s.setKeyAt k p).pc = s.pc := rfl
@[simp] theorem setKeyAt_sp : (s.setKeyAt k p).sp = s.sp := rfl
@[simp] theorem setKeyAt_stack : (s.setKeyAt k p).stack = s.stack := rfl
@[simp] theorem setKeyAt_dt : (s.setKeyAt k p).dt = s.dt := rfl
@[simp] theorem setKeyAt_st : (s.setKeyAt k p).st = s.st := rfl
@[simp] theorem setKeyAt_disp : (s.setKeyAt k p).disp = s.disp := rfl
@[simp] theorem setKeyAt_mem : (s.setKeyAt k p).mem = s.mem := rfl
@[simp] theorem setKeyAt_keys : (s.setKeyAt k p).keys = s.keys.set k.toNat p k.isLt := rfl
@[simp] theorem setKeyAt_draws : (s.setKeyAt k p).draws = s.draws := rfl
@[simp] theorem setKeyAt_fontImage : (s.setKeyAt k p).fontImage = s.fontImage := rfl
@[simp] theorem setKeyAt_reg (z : Nibble) : (s.setKeyAt k p).reg z = s.reg z := rfl
@[simp] theorem setKeyAt_stackAt (j : Nibble) : (s.setKeyAt k p).stackAt j = s.stackAt j := rfl
@[simp] theorem setKeyAt_pixel (r col : Nat) : (s.setKeyAt k p).pixel r col = s.pixel r col := rfl
@[simp] theorem setKeyAt_byteAt (j : Nat) : (s.setKeyAt k p).byteAt j = s.byteAt j := rfl
@[simp] theorem setKeyAt_draw8 : (s.setKeyAt k p).draw8 = s.draw8 := rfl
@[simp] theorem setKeyAt_fetch : (s.setKeyAt k p).fetch = s.fetch := rfl
end Setkeyat

section Consumedraw
variable (s : State)
@[simp] theorem consumeDraw_v : (s.consumeDraw).v = s.v := rfl
@[simp] theorem consumeDraw_i : (s.consumeDraw).i = s.i := rfl
@[simp] theorem consumeDraw_pc : (s.consumeDraw).pc = s.pc := rfl
@[simp] theorem consumeDraw_sp : (s.consumeDraw).sp = s.sp := rfl
@[simp] theorem consumeDraw_stack : (s.consumeDraw).stack = s.stack := rfl
@[simp] theorem consumeDraw_dt : (s.consumeDraw).dt = s.dt := rfl
@[simp] theorem consumeDraw_st : (s.consumeDraw).st = s.st := rfl
@[simp] theorem consumeDraw_disp : (s.consumeDraw).disp = s.disp := rfl
@[simp] theorem consumeDraw_mem : (s.consumeDraw).mem = s.mem := rfl
@[simp] theorem consumeDraw_keys : (s.consumeDraw).keys = s.keys := rfl
@[simp] theorem consumeDraw_draws : (s.consumeDraw).draws = s.draws + 1 := rfl
@[simp] theorem consumeDraw_fontImage : (s.consumeDraw).fontImage = s.fontImage := rfl
@[simp] theorem consumeDraw_reg (z : Nibble) : (s.consumeDraw).reg z = s.reg z := rfl
@[simp] theorem consumeDraw_stackAt (j : Nibble) : (s.consumeDraw).stackAt j = s.stackAt j := rfl
@[simp] theorem consumeDraw_keyAt (j : Nibble) : (s.consumeDraw).keyAt j = s.keyAt j := rfl
@[simp] theorem consumeDraw_pixel (r col : Nat) : (s.consumeDraw).pixel r col = s.pixel r col := rfl
@[simp] theorem consumeDraw_byteAt (j : Nat) : (s.consumeDraw).byteAt j = s.byteAt j := rfl
@[simp] theorem consumeDraw_lowestKey : (s.consumeDraw).lowestKey = s.lowestKey := rfl
@[simp] theorem consumeDraw_fetch : (s.consumeDraw).fetch = s.fetch := rfl
end Consumedraw

section Writebytes
variable (s : State) (a : Nat) (bs : List Byte)
@[simp] theorem writeBytes_v : (s.writeBytes a bs).v = s.v := rfl
@[simp] theorem writeBytes_i : (s.writeBytes a bs).i = s.i := rfl
@[simp] theorem writeBytes_pc : (s.writeBytes a bs).pc = s.pc := rfl
@[simp] theorem writeBytes_sp : (s.writeBytes a bs).sp = s.sp := rfl
@[simp] theorem writeBytes_stack : (s.writeBytes a bs).stack = s.stack := rfl
@[simp] theorem writeBytes_dt : (s.writeBytes a bs).dt = s.dt := rfl
@[simp] theorem writeBytes_st : (s.writeBytes a bs).st = s.st := rfl
@[simp] theorem writeBytes_disp : (s.writeBytes a bs).disp = s.disp := rfl
@[simp] theorem writeBytes_mem : (s.writeBytes a bs).mem = memSetBytes s.fontImage s.mem a bs := rfl
@[simp] theorem writeBytes_keys : (s.writeBytes a bs).keys = s.keys := rfl
@[simp] theorem writeBytes_draws : (s.writeBytes a bs).draws = s.draws := rfl
@[simp] theorem writeBytes_fontImage : (s.writeBytes a bs).fontImage = s.fontImage := rfl
@[simp] theorem writeBytes_reg (z : Nibble) : (s.writeBytes a bs).reg z = s.reg z := rfl
@[simp] theorem writeBytes_stackAt (j : Nibble) : (s.writeBytes a bs).stackAt j = s.stackAt j := rfl
@[simp] theorem writeBytes_keyAt (j : Nibble) : (s.writeBytes a bs).keyAt j = s.keyAt j := rfl
@[simp] theorem writeBytes_pixel (r col : Nat) : (s.writeBytes a bs).pixel r col = s.pixel r col := rfl
@[simp] theorem writeBytes_draw8 : (s.writeBytes a bs).draw8 = s.draw8 := rfl
@[simp] theorem writeBytes_lowestKey : (s.writeBytes a bs).lowestKey = s.lowestKey := rfl
end Writebytes

section Setregblock
variable (s : State) (bs : List Byte)
@[simp] theorem setRegBlock_v : (s.setRegBlock bs).v = loadRegsFrom s.v 0 bs := rfl
@[simp] theorem setRegBlock_i : (s.setRegBlock bs).i = s.i := rfl
@[simp] theorem setRegBlock_pc : (s.setRegBlock bs).pc = s.pc := rfl
@[simp] theorem setRegBlock_sp : (s.setRegBlock bs).sp = s.sp := rfl
@[simp] theorem setRegBlock_stack : (s.setRegBlock bs).stack = s.stack := rfl
@[simp] theorem setRegBlock_dt : (s.setRegBlock bs).dt = s.dt := rfl
@[simp] theorem setRegBlock_st : (s.setRegBlock bs).st = s.st := rfl
@[simp] theorem setRegBlock_disp : (s.setRegBlock bs).disp = s.disp := rfl
@[simp] theorem setRegBlock_mem : (s.setRegBlock bs).mem = s.mem := rfl
@[simp] theorem setRegBlock_keys : (s.setRegBlock bs).keys = s.keys := rfl
@[simp] theorem setRegBlock_draws : (s.setRegBlock bs).draws = s.draws := rfl
@[simp] theorem setRegBlock_fontImage : (s.setRegBlock bs).fontImage = s.fontImage := rfl
@[simp] theorem setRegBlock_stackAt (j : Nibble) : (s.setRegBlock bs).stackAt j = s.stackAt j := rfl
@[simp] theorem setRegBlock_keyAt (j : Nibble) : (s.setRegBlock bs).keyAt j = s.keyAt j := rfl
@[simp] theorem setRegBlock_pixel (r col : Nat) : (s.setRegBlock bs).pixel r col = s.pixel r col := rfl
@[simp] theorem setRegBlock_byteAt (j : Nat) : (s.setRegBlock bs).byteAt j = s.byteAt j := rfl
@[simp] theorem setRegBlock_draw8 : (s.setRegBlock bs).draw8 = s.draw8 := rfl
@[simp] theorem setRegBlock_lowestKey : (s.setRegBlock bs).lowestKey = s.lowestKey := rfl
@[simp] theorem setRegBlock_fetch : (s.setRegBlock bs).fetch = s.fetch := rfl
end Setregblock

section SkipIf
variable (s : State) (c : Bool)
@[simp] theorem skipIf_v : (s.skipIf c).v = s.v := by cases c <;> rfl
@[simp] theorem skipIf_i : (s.skipIf c).i = s.i := by cases c <;> rfl
@[simp] theorem skipIf_pc : (s.skipIf c).pc = if c then s.pc + 4#16 else s.pc + 2#16 := by cases c <;> rfl
@[simp] theorem skipIf_sp : (s.skipIf c).sp = s.sp := by cases c <;> rfl
@[simp] theorem skipIf_stack : (s.skipIf c).stack = s.stack := by cases c <;> rfl
@[simp] theorem skipIf_dt : (s.skipIf c).dt = s.dt := by cases c <;> rfl
@[simp] theorem skipIf_st : (s.skipIf c).st = s.st := by cases c <;> rfl
@[simp] theorem skipIf_disp : (s.skipIf c).disp = s.disp := by cases c <;> rfl
@[simp] theorem skipIf_mem : (s.skipIf c).mem = s.mem := by cases c <;> rfl
@[simp] theorem skipIf_keys : (s.skipIf c).keys = s.keys := by cases c <;> rfl
@[simp] theorem skipIf_draws : (s.skipIf c).draws = s.draws := by cases c <;> rfl
@[simp] theorem skipIf_fontImage : (s.skipIf c).fontImage = s.fontImage := by cases c <;> rfl
@[simp] theorem skipIf_reg (z : Nibble) : (s.skipIf c).reg z = s.reg z := by cases c <;> rfl
@[simp] theorem skipIf_stackAt (j : Nibble) : (s.skipIf c).stackAt j = s.stackAt j := by cases c <;> rfl
@[simp] theorem skipIf_keyAt (j : Nibble) : (s.skipIf c).keyAt j = s.keyAt j := by cases c <;> rfl
@[simp] theorem skipIf_pixel (r col : Nat) : (s.skipIf c).pixel r col = s.pixel r col := by cases c <;> rfl
@[simp] theorem skipIf_byteAt (j : Nat) : (s.skipIf c).byteAt j = s.byteAt j := by cases c <;> rfl
@[simp] theorem skipIf_draw8 : (s.skipIf c).draw8 = s.draw8 := by cases c <;> rfl
@[simp] theorem skipIf_lowestKey : (s.skipIf c).lowestKey = s.lowestKey := by cases c <;> rfl
end SkipIf

section SetRegFlag
variable (s : State) (x : Nibble) (b f : Byte)
@[simp] theorem setRegFlag_i : (s.setRegFlag x b f).i = s.i := rfl
@[simp] theorem setRegFlag_pc : (s.setRegFlag x b f).pc = s.pc := rfl
@[simp] theorem setRegFlag_sp : (s.setRegFlag x b f).sp = s.sp := rfl
@[simp] theorem setRegFlag_stack : (s.setRegFlag x b f).stack = s.stack := rfl
@[simp] theorem setRegFlag_dt : (s.setRegFlag x b f).dt = s.dt := rfl
@[simp] theorem setRegFlag_st : (s.setRegFlag x b f).st = s.st := rfl
@[simp] theorem setRegFlag_disp : (s.setRegFlag x b f).disp = s.disp := rfl
@[simp] theorem setRegFlag_mem : (s.setRegFlag x b f).mem = s.mem := rfl
@[simp] theorem setRegFlag_keys : (s.setRegFlag x b f).keys = s.keys := rfl
@[simp] theorem setRegFlag_draws : (s.setRegFlag x b f).draws = s.draws := rfl
@[simp] theorem setRegFlag_fontImage : (s.setRegFlag x b f).fontImage = s.fontImage := rfl
@[simp] theorem setRegFlag_stackAt (j : Nibble) : (s.setRegFlag x b f).stackAt j = s.stackAt j := rfl
@[simp] theorem setRegFlag_keyAt (j : Nibble) : (s.setRegFlag x b f).keyAt j = s.keyAt j := rfl
@[simp] theorem setRegFlag_pixel (r col : Nat) : (s.setRegFlag x b f).pixel r col = s.pixel r col := rfl
@[simp] theorem setRegFlag_byteAt (j : Nat) : (s.setRegFlag x b f).byteAt j = s.byteAt j := rfl
@[simp] theorem setRegFlag_draw8 : (s.setRegFlag x b f).draw8 = s.draw8 := rfl
@[simp] theorem setRegFlag_lowestKey : (s.setRegFlag x b f).lowestKey = s.lowestKey := rfl
@[simp] theorem setRegFlag_fetch : (s.setRegFlag x b f).fetch = s.fetch := rfl
end SetRegFlag

/-- A register read after one is written (spec/10_state.md R20: registers are independent). -/
@[simp] theorem setReg_reg (s : State) (x z : Nibble) (b : Byte) :
    (s.setReg x b).reg z = if z = x then b else s.reg z := by
  simp [State.reg, State.setReg, Vector.getElem_set, BitVec.toNat_inj, eq_comm]

/-- A register read after a result and then VF are written (spec/43_alu.md R140). -/
@[simp] theorem setRegFlag_reg (s : State) (x z : Nibble) (b f : Byte) :
    (s.setRegFlag x b f).reg z = if z = 15#4 then f else if z = x then b else s.reg z := by
  simp only [State.setRegFlag, setReg_reg]

/-- A stack entry read after one is written. -/
@[simp] theorem setStackAt_stackAt (s : State) (k j : Nibble) (a : Word) :
    (s.setStackAt k a).stackAt j = if j = k then a else s.stackAt j := by
  simp [State.stackAt, State.setStackAt, Vector.getElem_set, BitVec.toNat_inj, eq_comm]

/-- A key read after one is set. -/
@[simp] theorem setKeyAt_keyAt (s : State) (k j : Nibble) (p : Bool) :
    (s.setKeyAt k p).keyAt j = if j = k then p else s.keyAt j := by
  simp [State.keyAt, State.setKeyAt, Vector.getElem_set, BitVec.toNat_inj, eq_comm]

/-- Two register files that read alike are the same. -/
theorem regs_ext {s t : State} (h : ∀ z, t.reg z = s.reg z) : t.v = s.v := by
  apply Vector.ext
  intro k hk
  simpa [State.reg, Nat.mod_eq_of_lt hk] using h (BitVec.ofNat 4 k)

end Sys2Proof.Machine
end

