-- ==== Sys2Proof/Laws/Memory.lean ====
section
/-! SUPPORT. What the memory operations do: read after write, the canonical form, and the checked accesses. -/

namespace Sys2Proof.Machine

/-- A cell put in its place is what its address then reads as. -/
theorem memGet_memInsert (image : List Byte) (a c : Nat) (v : Byte) (m : List Host.Cell)
    (h : ∀ cell ∈ m, cell.1 ≠ a) : memGet image (memInsert a v m) c = if a = c then v else memGet image m c := by
  induction m with
  | nil => simp [memInsert, memGet]
  | cons cell m ih =>
    obtain ⟨b, w⟩ := cell
    have hb : b ≠ a := h (b, w) (by simp)
    have ih := ih (fun cell hc => h cell (by simp [hc]))
    by_cases hlt : a < b
    · simp [memInsert, hlt, memGet]
    · by_cases hbc : b = c
      · subst hbc; simp [memInsert, hlt, memGet, Ne.symm hb]
      · simp [memInsert, hlt, memGet, hbc, ih]

/-- Dropping the cells of one address makes that address unlisted and leaves every other. -/
theorem memGet_filter (image : List Byte) (a c : Nat) (m : List Host.Cell) :
    memGet image (m.filter (fun cell => cell.1 ≠ a)) c = if a = c then memDefault image a else memGet image m c := by
  induction m with
  | nil => by_cases h : a = c <;> simp [memGet, h]
  | cons cell m ih =>
    obtain ⟨b, w⟩ := cell
    by_cases hba : b = a
    · subst hba
      by_cases hbc : b = c
      · simpa [hbc] using ih
      · simpa [memGet, hbc] using ih
    · by_cases hbc : b = c
      · subst hbc; simp [memGet, hba, Ne.symm hba]
      · simpa [memGet, hba, hbc] using ih

theorem ne_of_mem_filter {a : Nat} {m : List Host.Cell} :
    ∀ cell ∈ m.filter (fun cell => cell.1 ≠ a), cell.1 ≠ a := by
  intro cell hc
  simpa using (List.mem_filter.mp hc).2

/-- Read after write: the written address gives the byte written, every other address what it gave before. It needs no
canonical form. -/
@[simp] theorem memGet_memSet (image : List Byte) (m : List Host.Cell) (a c : Nat) (v : Byte) :
    memGet image (memSet image m a v) c = if a = c then v else memGet image m c := by
  unfold memSet
  split
  · rename_i h; rw [memGet_filter, h]
  · rw [memGet_memInsert _ _ _ _ _ ne_of_mem_filter, memGet_filter]
    split <;> rfl

/-- Read after a write of consecutive bytes. -/
theorem memGet_memSetBytes (image : List Byte) (bs : List Byte) (m : List Host.Cell) (a c : Nat) :
    memGet image (memSetBytes image m a bs) c =
      if a ≤ c ∧ c < a + bs.length then bs.getD (c - a) 0#8 else memGet image m c := by
  induction bs generalizing m a with
  | nil => simp [memSetBytes]
  | cons b bs ih =>
    simp only [memSetBytes, ih, memGet_memSet, List.length_cons]
    by_cases hac : a = c
    · subst hac; simp
    · by_cases hin : a + 1 ≤ c ∧ c < a + 1 + bs.length
      · have h2 : a ≤ c ∧ c < a + (bs.length + 1) := by omega
        obtain ⟨k, hk⟩ : ∃ k, c - a = k + 1 := ⟨c - a - 1, by omega⟩
        have hk' : c - (a + 1) = k := by omega
        simp [hin, h2, hk, hk']
      · have h2 : ¬ (a ≤ c ∧ c < a + (bs.length + 1)) := by omega
        rw [if_neg hin, if_neg hac, if_neg h2]

/-- A byte read after consecutive bytes are written to the state's memory. -/
theorem writeBytes_byteAt (s : State) (a c : Nat) (bs : List Byte) :
    (s.writeBytes a bs).byteAt c = if a ≤ c ∧ c < a + bs.length then bs.getD (c - a) 0#8 else s.byteAt c :=
  memGet_memSetBytes _ _ _ _ _

theorem memInsert_mem {a : Nat} {v : Byte} {m : List Host.Cell} {cell : Host.Cell} (h : cell ∈ memInsert a v m) :
    cell = (a, v) ∨ cell ∈ m := by
  induction m with
  | nil => simpa [memInsert] using h
  | cons head m ih =>
    obtain ⟨b, w⟩ := head
    simp only [memInsert] at h
    split at h
    · simpa using h
    · rcases List.mem_cons.mp h with h | h
      · exact .inr (by simp [h])
      · rcases ih h with h | h
        · exact .inl h
        · exact .inr (by simp [h])

theorem memInsert_rising {a : Nat} {v : Byte} {m : List Host.Cell} (hm : m.Pairwise (fun p q => p.1 < q.1))
    (hne : ∀ cell ∈ m, cell.1 ≠ a) : (memInsert a v m).Pairwise (fun p q => p.1 < q.1) := by
  induction m with
  | nil => simp [memInsert]
  | cons head m ih =>
    obtain ⟨b, w⟩ := head
    rw [List.pairwise_cons] at hm
    have hb : b ≠ a := hne (b, w) (by simp)
    simp only [memInsert]
    split
    · rename_i hlt
      refine List.pairwise_cons.mpr ⟨?_, List.pairwise_cons.mpr hm⟩
      intro cell hc
      rcases List.mem_cons.mp hc with rfl | hc
      · exact hlt
      · exact lt_trans hlt (hm.1 cell hc)
    · refine List.pairwise_cons.mpr ⟨?_, ih hm.2 (fun cell hc => hne cell (by simp [hc]))⟩
      intro cell hc
      rcases memInsert_mem hc with rfl | hc
      · show b < a; omega
      · exact hm.1 cell hc

/-- What the canonical form says. -/
theorem Memory.wf_iff (image : List Byte) (m : List Host.Cell) :
    Memory.wf image m = true ↔ m.Pairwise (fun p q => p.1 < q.1) ∧
      ∀ cell ∈ m, cell.1 < Config.memSize ∧ cell.2 ≠ memDefault image cell.1 := by
  simp [Memory.wf, memRising, memListed]

/-- A write to an address that exists keeps the canonical form. -/
theorem memSet_wf {image : List Byte} {m : List Host.Cell} {a : Nat} {v : Byte} (ha : a < Config.memSize)
    (h : Memory.wf image m = true) : Memory.wf image (memSet image m a v) = true := by
  rw [Memory.wf_iff] at h ⊢
  have hf : (m.filter (fun cell => cell.1 ≠ a)).Pairwise (fun p q => p.1 < q.1) := h.1.filter _
  have hl : ∀ cell ∈ m.filter (fun cell => cell.1 ≠ a), cell.1 < Config.memSize ∧ cell.2 ≠ memDefault image cell.1 :=
    fun cell hc => h.2 cell (List.mem_filter.mp hc).1
  unfold memSet
  split
  · exact ⟨hf, hl⟩
  · rename_i hv
    refine ⟨memInsert_rising hf ne_of_mem_filter, ?_⟩
    intro cell hc
    rcases memInsert_mem hc with rfl | hc
    · exact ⟨ha, hv⟩
    · exact hl cell hc

/-- A write of consecutive bytes that stays inside memory keeps the canonical form. -/
theorem memSetBytes_wf {image : List Byte} {bs : List Byte} {m : List Host.Cell} {a : Nat}
    (ha : a + bs.length ≤ Config.memSize) (h : Memory.wf image m = true) :
    Memory.wf image (memSetBytes image m a bs) = true := by
  induction bs generalizing m a with
  | nil => exact h
  | cons b bs ih =>
    simp only [List.length_cons] at ha
    exact ih (by omega) (memSet_wf (by omega) h)

/-- The memory of the reset state is in canonical form. -/
theorem reset_mem_wf : Memory.wf State.reset.fontImage State.reset.mem = true := by decide

/-- A checked read answers the bytes or the fault of the lowest offending address, and nothing else. -/
theorem readSpan_cases (s : State) (a len : Nat) :
    (spanFits a len = true ∧ s.readSpan a len = .ok ((List.range len).map (fun k => s.byteAt (a + k)))) ∨
    (spanFits a len = false ∧ s.readSpan a len = .error (.memoryOutOfBounds (max a Config.memSize))) := by
  cases h : spanFits a len <;> simp [State.readSpan, h, spanFault]

/-- A checked write answers the state written or the fault of the lowest offending address, and nothing else. -/
theorem writeSpan_cases (s : State) (a : Nat) (bs : List Byte) :
    (spanFits a bs.length = true ∧ s.writeSpan a bs = .ok (s.writeBytes a bs)) ∨
    (spanFits a bs.length = false ∧ s.writeSpan a bs = .error (.memoryOutOfBounds (max a Config.memSize))) := by
  cases h : spanFits a bs.length <;> simp [State.writeSpan, h, spanFault]

theorem spanFits_iff (a len : Nat) : spanFits a len = true ↔ len = 0 ∨ a + len ≤ Config.memSize := by
  simp [spanFits]

/-- A write of one byte is the write of a span of one (spec/20_memory.md R52). -/
theorem memWrite_eq_writeSpan (s : State) (a : Nat) (v : Byte) : s.memWrite a v = s.writeSpan a [v] := by
  unfold State.memWrite State.writeSpan
  by_cases h : a < Config.memSize
  · have h2 : spanFits a [v].length = true := (spanFits_iff _ _).mpr (.inr (by simp only [List.length_singleton]; omega))
    rw [if_pos h, if_pos h2]
  · have h2 : spanFits a [v].length = false := by
      have := (spanFits_iff a [v].length).not.mpr (by simp only [List.length_singleton]; omega)
      simpa using this
    rw [if_neg h, h2, spanFault, max_eq_left (by omega)]
    rfl

/-- Everything a fetch can answer: the word, or the fault of the first of the two bytes that does not exist
(spec/20_memory.md R53). -/
theorem fetch_eq (s : State) : s.fetch =
    if s.pc.toNat + 1 < Config.memSize then .ok (wordOfBytes (s.byteAt s.pc.toNat) (s.byteAt (s.pc.toNat + 1)))
    else if s.pc.toNat < Config.memSize then .error (.memoryOutOfBounds (s.pc.toNat + 1))
    else .error (.memoryOutOfBounds s.pc.toNat) := by
  by_cases h1 : s.pc.toNat + 1 < Config.memSize
  · have h0 : s.pc.toNat < Config.memSize := by omega
    simp [State.fetch, State.memRead, h1, h0]
  · by_cases h0 : s.pc.toNat < Config.memSize <;> simp [State.fetch, State.memRead, h1, h0]

end Sys2Proof.Machine
end

