-- ==== Sys2Proof/Laws/Operands.lean ====
section
/-! SUPPORT. What the operand forms do: register blocks, digits, sprites on the display, keys. -/

namespace Sys2Proof.Machine

/-- The block of `V[0]` to `V[x]` has `x + 1` bytes. -/
@[simp] theorem regBlock_length (s : State) (x : Nibble) : (s.regBlock x).length = x.toNat + 1 := by
  have := x.isLt
  simp [State.regBlock]; omega

/-- Byte `k` of the block is `V[k]`. -/
theorem regBlock_getD (s : State) (x z : Nibble) (h : z.toNat ≤ x.toNat) : (s.regBlock x).getD z.toNat 0#8 = s.reg z := by
  have hz := z.isLt
  have : z.toNat < x.toNat + 1 := by omega
  simp [State.regBlock, State.reg, this, hz]

theorem loadRegsFrom_getElem (bs : List Byte) (v : Vector Byte 16) (k j : Nat) (hj : j < 16) :
    (loadRegsFrom v k bs)[j] = if k ≤ j ∧ j < k + bs.length then bs.getD (j - k) 0#8 else v[j] := by
  induction bs generalizing v k with
  | nil => simp [loadRegsFrom]
  | cons b bs ih =>
    simp only [loadRegsFrom, ih, List.length_cons]
    by_cases hkj : k = j
    · subst hkj; simp
    · by_cases hin : k + 1 ≤ j ∧ j < k + 1 + bs.length
      · have h2 : k ≤ j ∧ j < k + (bs.length + 1) := by omega
        obtain ⟨m, hm⟩ : ∃ m, j - k = m + 1 := ⟨j - k - 1, by omega⟩
        have hm' : j - (k + 1) = m := by omega
        rw [if_pos hin, if_pos h2, hm, hm']; rfl
      · have h2 : ¬ (k ≤ j ∧ j < k + (bs.length + 1)) := by omega
        rw [if_neg hin, if_neg h2, Vector.getElem_setIfInBounds hj, if_neg hkj]

/-- A register after bytes are loaded into `V[0]`, `V[1]` and so on (spec/48_index_memory.md R194). -/
theorem setRegBlock_reg (s : State) (bs : List Byte) (z : Nibble) :
    (s.setRegBlock bs).reg z = if z.toNat < bs.length then bs.getD z.toNat 0#8 else s.reg z := by
  have := loadRegsFrom_getElem bs s.v 0 z.toNat z.isLt
  simpa [State.reg, State.setRegBlock] using this

@[simp] theorem bcdDigits_length (v : Byte) : (bcdDigits v).length = 3 := by simp [bcdDigits]

/-- Bit `c` of a display row is bit `7 - (c - ox)` of the sprite byte that falls on it (spec/45_draw.md R165). -/
theorem spriteRow_getLsbD (ox c : Nat) (b : Byte) (hc : c < 64) :
    (spriteRow ox b).getLsbD c = (decide (ox ≤ c ∧ c < ox + 8) && b.getLsbD (7 - (c - ox))) := by
  simp only [spriteRow, BitVec.getLsbD_shiftLeft, BitVec.getLsbD_setWidth, BitVec.getLsbD_reverse, BitVec.getMsbD]
  by_cases h1 : c < ox
  · have : ¬ (ox ≤ c ∧ c < ox + 8) := by omega
    simp [h1, this]
  · by_cases h2 : c < ox + 8
    · have h3 : ox ≤ c ∧ c < ox + 8 := by omega
      have h4 : c - ox < 8 := by omega
      have h5 : c - ox < 64 := by omega
      simp [h1, h3, h4, h5, hc]
    · have h4 : ¬ c - ox < 8 := by omega
      simp [h2, h4]

theorem rowAt_setIfInBounds (d : Vector PixelRow 32) (k r : Nat) (row : PixelRow) (hr : r < 32) :
    rowAt (d.setIfInBounds k row) r = if k = r then row else rowAt d r := by
  simp [rowAt, hr, Vector.getElem_setIfInBounds]

/-- A display row after sprite rows are XORed on from row `oy`. -/
theorem rowAt_blit (ox : Nat) (bs : List Byte) (d : Vector PixelRow 32) (oy r : Nat) (hr : r < 32) :
    rowAt (blit ox d oy bs) r =
      if oy ≤ r ∧ r < oy + bs.length then rowAt d r ^^^ spriteRow ox (bs.getD (r - oy) 0#8) else rowAt d r := by
  induction bs generalizing d oy with
  | nil => simp [blit]
  | cons b bs ih =>
    simp only [blit, ih, List.length_cons, rowAt_setIfInBounds _ _ _ _ hr]
    by_cases hor : oy = r
    · subst hor; simp
    · by_cases hin : oy + 1 ≤ r ∧ r < oy + 1 + bs.length
      · have h2 : oy ≤ r ∧ r < oy + (bs.length + 1) := by omega
        obtain ⟨m, hm⟩ : ∃ m, r - oy = m + 1 := ⟨r - oy - 1, by omega⟩
        have hm' : r - (oy + 1) = m := by omega
        rw [if_pos hin, if_pos h2, if_neg hor, hm, hm']; rfl
      · have h2 : ¬ (oy ≤ r ∧ r < oy + (bs.length + 1)) := by omega
        rw [if_neg hin, if_neg h2, if_neg hor]

/-- Collision is over the whole sprite: some sprite row meets a set pixel (R164). -/
theorem collides_iff (d : Vector PixelRow 32) (ox oy : Nat) (bs : List Byte) :
    collides d ox oy bs = true ↔ ∃ k, k < bs.length ∧ rowAt d (oy + k) &&& spriteRow ox (bs.getD k 0#8) ≠ 0#64 := by
  induction bs generalizing oy with
  | nil => simp [collides]
  | cons b bs ih =>
    simp only [collides, Bool.or_eq_true, decide_eq_true_eq, ih, List.length_cons]
    constructor
    · rintro (h | ⟨k, hk, h⟩)
      · exact ⟨0, by omega, by simpa using h⟩
      · exact ⟨k + 1, by omega, by simpa [Nat.add_assoc, Nat.add_comm 1 k] using h⟩
    · rintro ⟨k, hk, h⟩
      cases k with
      | zero => exact .inl (by simpa using h)
      | succ k => exact .inr ⟨k, by omega, by simpa [Nat.add_assoc, Nat.add_comm 1 k] using h⟩

/-- The key found is pressed and no smaller one is (spec/46_keypad.md R172). -/
theorem lowestKey_some_iff (s : State) (k : Nat) :
    s.lowestKey = some k ↔ ∃ h : k < 16, s.keys[k] = true ∧ ∀ j, (hj : j < k) → s.keys[j] = false := by
  rw [State.lowestKey, List.findIdx?_eq_some_iff_getElem]
  simp

/-- No key is found where none is pressed. -/
theorem lowestKey_none_iff (s : State) : s.lowestKey = none ↔ ∀ z, s.keyAt z = false := by
  rw [State.lowestKey, List.findIdx?_eq_none_iff]
  constructor
  · intro h z
    exact h _ (by simp)
  · intro h b hb
    obtain ⟨j, hj, rfl⟩ := List.getElem_of_mem hb
    have hj' : j < 16 := by simpa using hj
    simpa [State.keyAt, Nat.mod_eq_of_lt hj'] using h (BitVec.ofNat 4 j)

end Sys2Proof.Machine
end

