-- ==== Sys2Proof/Laws/Step.lean ====
section
/-! SUPPORT. What each instruction and each step can do, said once: later proofs cite these and unfold neither. -/

namespace Sys2Proof.Machine

section Equations
variable (x y n : Nibble) (kk : Byte) (nnn : Addr12) (s : State)

@[simp] theorem exec_clearScreen : exec .clearScreen s = .next (s.setDisp (Vector.replicate 32 0#64)).advance := rfl
@[simp] theorem exec_jump : exec (.jump nnn) s = .next (s.setPc (nnn.setWidth 16)) := rfl
@[simp] theorem exec_skipIfEqualByte :
    exec (.skipIfEqualByte x kk) s = .next (s.skipIf (decide (s.reg x = kk))) := rfl
@[simp] theorem exec_skipIfNotEqualByte :
    exec (.skipIfNotEqualByte x kk) s = .next (s.skipIf (decide (s.reg x ≠ kk))) := rfl
@[simp] theorem exec_skipIfEqualReg :
    exec (.skipIfEqualReg x y) s = .next (s.skipIf (decide (s.reg x = s.reg y))) := rfl
@[simp] theorem exec_skipIfNotEqualReg :
    exec (.skipIfNotEqualReg x y) s = .next (s.skipIf (decide (s.reg x ≠ s.reg y))) := rfl
@[simp] theorem exec_loadByte : exec (.loadByte x kk) s = .next (s.setReg x kk).advance := rfl
@[simp] theorem exec_addByte : exec (.addByte x kk) s = .next (s.setReg x (s.reg x + kk)).advance := rfl
@[simp] theorem exec_loadReg : exec (.loadReg x y) s = .next (s.setReg x (s.reg y)).advance := rfl
@[simp] theorem exec_orReg : exec (.orReg x y) s = .next (s.setReg x (s.reg x ||| s.reg y)).advance := rfl
@[simp] theorem exec_andReg : exec (.andReg x y) s = .next (s.setReg x (s.reg x &&& s.reg y)).advance := rfl
@[simp] theorem exec_xorReg : exec (.xorReg x y) s = .next (s.setReg x (s.reg x ^^^ s.reg y)).advance := rfl
@[simp] theorem exec_addReg : exec (.addReg x y) s =
    .next (s.setRegFlag x (s.reg x + s.reg y) (carryFlag (s.reg x) (s.reg y))).advance := rfl
@[simp] theorem exec_subReg : exec (.subReg x y) s =
    .next (s.setRegFlag x (s.reg x - s.reg y) (noBorrowFlag (s.reg x) (s.reg y))).advance := rfl
@[simp] theorem exec_shiftRight : exec (.shiftRight x y) s =
    .next (s.setRegFlag x (s.reg x >>> 1) (lowBitFlag (s.reg x))).advance := rfl
@[simp] theorem exec_subnReg : exec (.subnReg x y) s =
    .next (s.setRegFlag x (s.reg y - s.reg x) (greaterFlag (s.reg x) (s.reg y))).advance := rfl
@[simp] theorem exec_shiftLeft : exec (.shiftLeft x y) s =
    .next (s.setRegFlag x (s.reg x <<< 1) (highBitFlag (s.reg x))).advance := rfl
@[simp] theorem exec_loadI : exec (.loadI nnn) s = .next (s.setI (nnn.setWidth 16)).advance := rfl
@[simp] theorem exec_jumpPlusV0 :
    exec (.jumpPlusV0 nnn) s = .next (s.setPc (nnn.setWidth 16 + (s.reg 0#4).setWidth 16)) := rfl
@[simp] theorem exec_randomAndMask :
    exec (.randomAndMask x kk) s = .next (s.setReg x (s.draw8 &&& kk)).consumeDraw.advance := rfl
@[simp] theorem exec_loadVxFromDelayTimer : exec (.loadVxFromDelayTimer x) s = .next (s.setReg x s.dt).advance := rfl
@[simp] theorem exec_loadDelayTimer : exec (.loadDelayTimer x) s = .next (s.setDt (s.reg x)).advance := rfl
@[simp] theorem exec_loadSoundTimer : exec (.loadSoundTimer x) s = .next (s.setSt (s.reg x)).advance := rfl
@[simp] theorem exec_addToI : exec (.addToI x) s = .next (s.setI (s.i + (s.reg x).setWidth 16)).advance := rfl
@[simp] theorem exec_loadFontAddress :
    exec (.loadFontAddress x) s = .next (s.setI (glyphAddress (s.reg x))).advance := rfl

end Equations

/-- `return` faults where no call is active, and else goes to the entry `SP` names. -/
theorem exec_ret_cases (s : State) :
    (s.sp = 0#4 ∧ exec .ret s = .fault (.stackUnderflow s.pc)) ∨
    (s.sp ≠ 0#4 ∧ exec .ret s = .next ((s.setPc (s.stackAt s.sp)).setSp (s.sp - 1#4))) := by
  by_cases h : s.sp = 0#4 <;> simp [exec, execReturn, raise, h]

/-- `call` faults where the stack is full, and else saves `pc + 2` in the next entry. -/
theorem exec_call_cases (nnn : Addr12) (s : State) :
    (s.sp = 15#4 ∧ exec (.call nnn) s = .fault (.stackOverflow s.pc)) ∨
    (s.sp ≠ 15#4 ∧ exec (.call nnn) s =
      .next (((s.setSp (s.sp + 1#4)).setStackAt (s.sp + 1#4) (s.pc + 2#16)).setPc (nnn.setWidth 16))) := by
  by_cases h : s.sp = 15#4 <;> simp [exec, execCall, raise, h]

/-- `draw-sprite` faults on memory, else faults on the display, else draws. -/
theorem exec_drawSprite_cases (x y n : Nibble) (s : State) :
    (spanFits s.i.toNat n.toNat = false ∧
      exec (.drawSprite x y n) s = .fault (.memoryOutOfBounds (max s.i.toNat Config.memSize))) ∨
    (spanFits s.i.toNat n.toNat = true ∧
      spriteFits (originColumn (s.reg x)) (originRow (s.reg y)) n.toNat = false ∧
      exec (.drawSprite x y n) s =
        .fault (.displayOutOfBounds (originColumn (s.reg x)) (originRow (s.reg y)) n.toNat)) ∨
    (spanFits s.i.toNat n.toNat = true ∧
      spriteFits (originColumn (s.reg x)) (originRow (s.reg y)) n.toNat = true ∧
      exec (.drawSprite x y n) s = .next (drawRows (originColumn (s.reg x)) (originRow (s.reg y))
        ((List.range n.toNat).map (fun k => s.byteAt (s.i.toNat + k))) s)) := by
  rcases readSpan_cases s s.i.toNat n.toNat with ⟨hm, h⟩ | ⟨hm, h⟩
  · cases hd : spriteFits (originColumn (s.reg x)) (originRow (s.reg y)) n.toNat <;>
      simp [exec, execDrawSprite, raise, h, hm, hd]
  · simp [exec, execDrawSprite, raise, h, hm]

/-- A key skip faults on an index above 15, and else skips on the state of that key. -/
theorem skipOnKey_cases (x : Nibble) (wanted : Bool) (s : State) :
    (15 < (s.reg x).toNat ∧ skipOnKey x wanted s = .fault (.keyIndexOutOfRange (s.reg x))) ∨
    ((s.reg x).toNat ≤ 15 ∧
      skipOnKey x wanted s = .next (s.skipIf (s.keyAt ((s.reg x).setWidth 4) == wanted))) := by
  by_cases h : 15 < (s.reg x).toNat
  · simp [skipOnKey, raise, h]
  · exact .inr ⟨by omega, by simp [skipOnKey, h]⟩

theorem exec_skipIfKeyPressed (x : Nibble) (s : State) : exec (.skipIfKeyPressed x) s = skipOnKey x true s := rfl
theorem exec_skipIfKeyNotPressed (x : Nibble) (s : State) : exec (.skipIfKeyNotPressed x) s = skipOnKey x false s := rfl

/-- The key wait ends with the smallest pressed key, and else the step leaves the state as it was. -/
theorem exec_loadVxBlockingOnKey_cases (x : Nibble) (s : State) :
    (∃ k, s.lowestKey = some k ∧
      exec (.loadVxBlockingOnKey x) s = .next (s.setReg x (BitVec.ofNat 8 k)).advance) ∨
    (s.lowestKey = none ∧ exec (.loadVxBlockingOnKey x) s = .next s) := by
  cases h : s.lowestKey <;> simp [exec, execLoadVxBlockingOnKey, h]

/-- A store at `I` writes all its bytes and advances, or faults and writes none. -/
theorem storeAtI_cases (bs : List Byte) (s : State) :
    (spanFits s.i.toNat bs.length = true ∧ storeAtI bs s = .next (s.writeBytes s.i.toNat bs).advance) ∨
    (spanFits s.i.toNat bs.length = false ∧
      storeAtI bs s = .fault (.memoryOutOfBounds (max s.i.toNat Config.memSize))) := by
  rcases writeSpan_cases s s.i.toNat bs with ⟨hm, h⟩ | ⟨hm, h⟩ <;> simp [storeAtI, raise, h, hm]

theorem exec_storeBcd (x : Nibble) (s : State) : exec (.storeBcd x) s = storeAtI (bcdDigits (s.reg x)) s := rfl
theorem exec_storeBlock (x : Nibble) (s : State) : exec (.storeBlock x) s = storeAtI (s.regBlock x) s := rfl

/-- `load-block` loads all its registers and advances, or faults and loads none. -/
theorem exec_loadBlock_cases (x : Nibble) (s : State) :
    (spanFits s.i.toNat (x.toNat + 1) = true ∧ exec (.loadBlock x) s = .next (s.setRegBlock
      ((List.range (x.toNat + 1)).map (fun k => s.byteAt (s.i.toNat + k)))).advance) ∨
    (spanFits s.i.toNat (x.toNat + 1) = false ∧
      exec (.loadBlock x) s = .fault (.memoryOutOfBounds (max s.i.toNat Config.memSize))) := by
  rcases readSpan_cases s s.i.toNat (x.toNat + 1) with ⟨hm, h⟩ | ⟨hm, h⟩ <;>
    simp [exec, execLoadBlock, raise, h, hm]

/-- A step goes on exactly where the fetched word decodes and its instruction goes on. -/
theorem step_next_iff (s t : State) : step s = .next t ↔
    ∃ op i, s.fetch = .ok op ∧ decodeWord op = some i ∧ exec i s = .next t := by
  unfold step raise
  cases hf : s.fetch with
  | error f => simp
  | ok op => cases hd : decodeWord op <;> simp [hd]

/-- A step faults at the fetch, or at the decode, or in its instruction, in that order (spec/60_exceptions.md R230). -/
theorem step_fault_iff (s : State) (f : Fault) : step s = .fault f ↔
    s.fetch = .error f ∨ (∃ op, s.fetch = .ok op ∧ decodeWord op = none ∧ f = .unknownOpcode op) ∨
    (∃ op i, s.fetch = .ok op ∧ decodeWord op = some i ∧ exec i s = .fault f) := by
  unfold step raise
  cases hf : s.fetch with
  | error f => simp
  | ok op => cases hd : decodeWord op <;> simp [hd, eq_comm]

/-- The address a step was fetched from lies inside memory with the byte after it. -/
theorem fetch_ok_pc {s : State} {op : Word} (h : s.fetch = .ok op) : s.pc.toNat + 1 < Config.memSize := by
  rw [fetch_eq] at h
  by_contra hp
  rw [if_neg hp] at h
  split at h <;> cases h

/-- An instruction placed where the machine fetches next is what the next step runs, on the state it was placed in. -/
theorem step_withFetchWord (s : State) (nbits w : Nat) (i : Instr) (h : decodeTableWord nbits w = some i) :
    step (s.withFetchWord nbits w) = exec i (s.withFetchWord nbits w) := by
  have hp : s.withFetchablePc.pc.toNat + 1 < Config.memSize := by
    unfold State.withFetchablePc
    split
    · assumption
    · simp [Config.programBase, Config.memSize]
  have hf : (s.withFetchWord nbits w).fetch = .ok (tableWord nbits w) := by
    rw [fetch_eq, if_pos (by exact hp)]
    simp [State.withFetchWord, writeBytes_byteAt, bytesOfWord, wordOfBytes_bytesOfWord]
  rw [decodeTableWord_eq] at h
  simp [step, hf, h]

end Sys2Proof.Machine
end

