-- ==== Sys2Proof/Laws/HostOps.lean ====
section
/-! SUPPORT. What the host's operations do, and the frame relation taken apart into one equation per kind of state. -/

namespace Sys2Proof.Machine

/-- A frame, kind by kind. -/
theorem keepsAllBut_iff (changed : List Part) (s t : State) : keepsAllBut changed s t ↔
    (.registers ∉ changed → ∀ z, t.reg z = s.reg z) ∧ (.index ∉ changed → t.i = s.i) ∧
    (.callStack ∉ changed → t.sp = s.sp ∧ ∀ k, t.stackAt k = s.stackAt k) ∧
    (.delayTimer ∉ changed → t.dt = s.dt) ∧ (.soundTimer ∉ changed → t.st = s.st) ∧
    (.display ∉ changed → ∀ r c, r < 32 → c < 64 → t.pixel r c = s.pixel r c) ∧
    (.memory ∉ changed → ∀ a, t.byteAt a = s.byteAt a) ∧ (.keys ∉ changed → ∀ k, t.keyAt k = s.keyAt k) ∧
    (.draws ∉ changed → t.draws = s.draws) ∧ (.font ∉ changed → t.fontImage = s.fontImage) := by
  refine ⟨fun h => ⟨h _, h _, h _, h _, h _, h _, h _, h _, h _, h _⟩, ?_⟩
  rintro ⟨h1, h2, h3, h4, h5, h6, h7, h8, h9, h10⟩ p hp
  cases p
  exacts [h1 hp, h2 hp, h3 hp, h4 hp, h5 hp, h6 hp, h7 hp, h8 hp, h9 hp, h10 hp]

/-- Two frames one after another. -/
theorem keepsAllBut_trans {changed : List Part} {s t u : State} (h1 : keepsAllBut changed s t)
    (h2 : keepsAllBut changed t u) : keepsAllBut changed s u := by
  intro p hp
  have a := h1 p hp
  have b := h2 p hp
  cases p with
  | callStack => exact ⟨b.1.trans a.1, fun k => (b.2 k).trans (a.2 k)⟩
  | registers => exact fun z => (b z).trans (a z)
  | display => exact fun r c hr hc => (b r c hr hc).trans (a r c hr hc)
  | memory => exact fun x => (b x).trans (a x)
  | keys => exact fun k => (b k).trans (a k)
  | index => exact Eq.trans b a
  | delayTimer => exact Eq.trans b a
  | soundTimer => exact Eq.trans b a
  | draws => exact Eq.trans b a
  | font => exact Eq.trans b a

/-- The step operation is the step where it goes on. -/
theorem stepOp_of_next {s t : State} (h : Sys2Proof.Machine.step s = .next t) : s.stepOp = (t, .ok) := by
  simp [State.stepOp, h]

/-- The timers one tick later (spec/60_exceptions.md R241). -/
theorem countDown_toNat (b : Byte) : (countDown b).toNat = b.toNat - 1 := by
  have h : ∀ b : Byte, (countDown b).toNat = b.toNat - 1 := by decide
  exact h b

/-- load-image writes all the bytes or none (spec/49_host_operations.md R202). -/
theorem loadImage_cases (bytes : List Byte) (base : Nat) (s : State) :
    (base + bytes.length ≤ Config.memSize ∧ s.loadImage bytes base = (s.writeBytes base bytes, .ok)) ∨
    (Config.memSize < base + bytes.length ∧ s.loadImage bytes base = (s, .imageTooLarge)) := by
  by_cases h : base + bytes.length ≤ Config.memSize
  · exact .inl ⟨h, by simp [State.loadImage, imageFits, h]⟩
  · exact .inr ⟨by omega, by simp [State.loadImage, imageFits, h]⟩

/-- A step that faults leaves the state it found (spec/60_exceptions.md R229). -/
theorem stepOp_of_fault {s : State} {f : Fault} (h : Sys2Proof.Machine.step s = .fault f) :
    s.stepOp = (s, .execError f) := by
  simp [State.stepOp, h]

/-- An operation returns a fatal fault exactly where it is a step that raises one. -/
theorem fatal_apply_iff (s : State) (op : HostOp) (f : Fault) : (s.apply op).2.fatal = some f ↔
    op = .step ∧ Sys2Proof.Machine.step s = .fault f ∧ f.isFatal = true := by
  cases op with
  | step =>
    simp only [State.apply, State.stepOp, true_and]
    cases h : Sys2Proof.Machine.step s with
    | next t => simp [OpOutcome.fatal]
    | refused r => simp [OpOutcome.fatal]
    | fault g =>
      by_cases hg : g.isFatal = true
      · simp only [OpOutcome.fatal, hg, if_true, Option.some.injEq, Host.Outcome.fault.injEq]
        exact ⟨fun e => ⟨e, e ▸ hg⟩, And.left⟩
      · simp only [OpOutcome.fatal, hg, Host.Outcome.fault.injEq]
        refine ⟨fun e => by simp at e, fun ⟨e, hf⟩ => absurd (e ▸ hf) hg⟩
  | loadImage bytes base => rcases loadImage_cases bytes base s with ⟨_, h⟩ | ⟨_, h⟩ <;> simp [State.apply, h, OpOutcome.fatal]
  | reset => simp [State.apply, OpOutcome.fatal]
  | tickTimers => simp [State.apply, OpOutcome.fatal]
  | setKey k pressed => simp [State.apply, OpOutcome.fatal]
  | readDisplay => simp [State.apply, OpOutcome.fatal]
  | readRegisters => simp [State.apply, OpOutcome.fatal]
  | readStack => simp [State.apply, OpOutcome.fatal]

/-- Everything one operation at the head of a schedule can do: end it with a fatal fault, or hand its state on. -/
theorem runSchedule_cons_cases (s : State) (op : HostOp) (ops : List HostOp) :
    (∃ f, (s.apply op).2.fatal = some f ∧ s.runSchedule (op :: ops) = .error f) ∨
    ((s.apply op).2.fatal = none ∧ s.runSchedule (op :: ops) = (s.apply op).1.runSchedule ops) := by
  cases h : (s.apply op).2.fatal <;> simp [State.runSchedule, h]

/-- A schedule in two parts. -/
theorem runSchedule_append (s : State) (a b : List HostOp) : s.runSchedule (a ++ b) =
    match s.runSchedule a with
    | .ok t => t.runSchedule b
    | .error f => .error f := by
  induction a generalizing s with
  | nil => rfl
  | cons op ops ih =>
    cases h : (s.apply op).2.fatal with
    | some f => simp [State.runSchedule, h]
    | none => simpa [State.runSchedule, h] using ih _

end Sys2Proof.Machine
end

