-- ==== Sys2Proof/Laws/PerInstr.lean ====
section
/-! SUPPORT. A law of every instruction as text of a program: it has a row of its name in the opcode map, and its word
selects that row (spec/30_encoding.md R74, R75). -/

namespace Sys2Proof

/-- The class mask keeps the class of a word of format NNN. -/
theorem wordNNN_class (c : Nibble) (nnn : Addr12) : wordNNN c nnn &&& 0xF000#16 = wordNNN c 0x000#12 := by
  refine BitVec.eq_of_getLsbD_eq fun k hk => ?_
  simp only [wordNNN, BitVec.getLsbD_and, BitVec.getLsbD_append]
  interval_cases k <;> simp

/-- The class mask keeps the class of a word of format XKK. -/
theorem wordXKK_class (c x : Nibble) (kk : Byte) : wordXKK c x kk &&& 0xF000#16 = wordXKK c 0x0#4 0x00#8 := by
  refine BitVec.eq_of_getLsbD_eq fun k hk => ?_
  simp only [wordXKK, BitVec.getLsbD_and, BitVec.getLsbD_append]
  interval_cases k <;> simp

/-- The mask of format X keeps the class and the sub-function. -/
theorem wordXKK_low (c x : Nibble) (kk : Byte) : wordXKK c x kk &&& 0xF0FF#16 = wordXKK c 0x0#4 kk := by
  refine BitVec.eq_of_getLsbD_eq fun k hk => ?_
  simp only [wordXKK, BitVec.getLsbD_and, BitVec.getLsbD_append]
  interval_cases k <;> simp

/-- The class mask keeps the class of a word of format XYN. -/
theorem wordXYN_class (c x y n : Nibble) : wordXYN c x y n &&& 0xF000#16 = wordXYN c 0x0#4 0x0#4 0x0#4 := by
  refine BitVec.eq_of_getLsbD_eq fun k hk => ?_
  simp only [wordXYN, BitVec.getLsbD_and, BitVec.getLsbD_append]
  interval_cases k <;> simp

/-- The mask of format XY keeps the class and the sub-function. -/
theorem wordXYN_low (c x y n : Nibble) : wordXYN c x y n &&& 0xF00F#16 = wordXYN c 0x0#4 0x0#4 n := by
  refine BitVec.eq_of_getLsbD_eq fun k hk => ?_
  simp only [wordXYN, BitVec.getLsbD_and, BitVec.getLsbD_append]
  interval_cases k <;> simp

/-- The instruction's word selects a row of the opcode map that bears the instruction's name. -/
def Laws.EncodesInRow.Statement (i : Instr) : Prop :=
  ∃ r ∈ opcodeTable, r.mnemonic = i.mnemonic ∧ r.selects (encode i) = true

section EncodesInRow
open Laws.EncodesInRow

theorem Laws.EncodesInRow.clearScreen : Statement .clearScreen :=
  ⟨⟨0xFFFF#16, 0x00E0#16, "clear-screen"⟩, by decide, rfl, by decide⟩

theorem Laws.EncodesInRow.ret : Statement .ret :=
  ⟨⟨0xFFFF#16, 0x00EE#16, "return"⟩, by decide, rfl, by decide⟩

theorem Laws.EncodesInRow.jump (nnn : Addr12) : Statement (.jump nnn) :=
  ⟨⟨0xF000#16, 0x1000#16, "jump"⟩, by decide, rfl, by rw [OpcodeRow.selects, encode, wordNNN_class]; decide⟩

theorem Laws.EncodesInRow.call (nnn : Addr12) : Statement (.call nnn) :=
  ⟨⟨0xF000#16, 0x2000#16, "call"⟩, by decide, rfl, by rw [OpcodeRow.selects, encode, wordNNN_class]; decide⟩

theorem Laws.EncodesInRow.skipIfEqualByte (x : Nibble) (kk : Byte) : Statement (.skipIfEqualByte x kk) :=
  ⟨⟨0xF000#16, 0x3000#16, "skip-if-equal-byte"⟩, by decide, rfl, by rw [OpcodeRow.selects, encode, wordXKK_class]; decide⟩

theorem Laws.EncodesInRow.skipIfNotEqualByte (x : Nibble) (kk : Byte) : Statement (.skipIfNotEqualByte x kk) :=
  ⟨⟨0xF000#16, 0x4000#16, "skip-if-not-equal-byte"⟩, by decide, rfl, by rw [OpcodeRow.selects, encode, wordXKK_class]; decide⟩

theorem Laws.EncodesInRow.skipIfEqualReg (x y : Nibble) : Statement (.skipIfEqualReg x y) :=
  ⟨⟨0xF00F#16, 0x5000#16, "skip-if-equal-reg"⟩, by decide, rfl, by rw [OpcodeRow.selects, encode, wordXYN_low]; decide⟩

theorem Laws.EncodesInRow.loadByte (x : Nibble) (kk : Byte) : Statement (.loadByte x kk) :=
  ⟨⟨0xF000#16, 0x6000#16, "load-byte"⟩, by decide, rfl, by rw [OpcodeRow.selects, encode, wordXKK_class]; decide⟩

theorem Laws.EncodesInRow.addByte (x : Nibble) (kk : Byte) : Statement (.addByte x kk) :=
  ⟨⟨0xF000#16, 0x7000#16, "add-byte"⟩, by decide, rfl, by rw [OpcodeRow.selects, encode, wordXKK_class]; decide⟩

theorem Laws.EncodesInRow.loadReg (x y : Nibble) : Statement (.loadReg x y) :=
  ⟨⟨0xF00F#16, 0x8000#16, "load-reg"⟩, by decide, rfl, by rw [OpcodeRow.selects, encode, wordXYN_low]; decide⟩

theorem Laws.EncodesInRow.orReg (x y : Nibble) : Statement (.orReg x y) :=
  ⟨⟨0xF00F#16, 0x8001#16, "or"⟩, by decide, rfl, by rw [OpcodeRow.selects, encode, wordXYN_low]; decide⟩

theorem Laws.EncodesInRow.andReg (x y : Nibble) : Statement (.andReg x y) :=
  ⟨⟨0xF00F#16, 0x8002#16, "and"⟩, by decide, rfl, by rw [OpcodeRow.selects, encode, wordXYN_low]; decide⟩

theorem Laws.EncodesInRow.xorReg (x y : Nibble) : Statement (.xorReg x y) :=
  ⟨⟨0xF00F#16, 0x8003#16, "xor"⟩, by decide, rfl, by rw [OpcodeRow.selects, encode, wordXYN_low]; decide⟩

theorem Laws.EncodesInRow.addReg (x y : Nibble) : Statement (.addReg x y) :=
  ⟨⟨0xF00F#16, 0x8004#16, "add-reg"⟩, by decide, rfl, by rw [OpcodeRow.selects, encode, wordXYN_low]; decide⟩

theorem Laws.EncodesInRow.subReg (x y : Nibble) : Statement (.subReg x y) :=
  ⟨⟨0xF00F#16, 0x8005#16, "sub-reg"⟩, by decide, rfl, by rw [OpcodeRow.selects, encode, wordXYN_low]; decide⟩

theorem Laws.EncodesInRow.shiftRight (x y : Nibble) : Statement (.shiftRight x y) :=
  ⟨⟨0xF00F#16, 0x8006#16, "shift-right"⟩, by decide, rfl, by rw [OpcodeRow.selects, encode, wordXYN_low]; decide⟩

theorem Laws.EncodesInRow.subnReg (x y : Nibble) : Statement (.subnReg x y) :=
  ⟨⟨0xF00F#16, 0x8007#16, "subn-reg"⟩, by decide, rfl, by rw [OpcodeRow.selects, encode, wordXYN_low]; decide⟩

theorem Laws.EncodesInRow.shiftLeft (x y : Nibble) : Statement (.shiftLeft x y) :=
  ⟨⟨0xF00F#16, 0x800E#16, "shift-left"⟩, by decide, rfl, by rw [OpcodeRow.selects, encode, wordXYN_low]; decide⟩

theorem Laws.EncodesInRow.skipIfNotEqualReg (x y : Nibble) : Statement (.skipIfNotEqualReg x y) :=
  ⟨⟨0xF00F#16, 0x9000#16, "skip-if-not-equal-reg"⟩, by decide, rfl, by rw [OpcodeRow.selects, encode, wordXYN_low]; decide⟩

theorem Laws.EncodesInRow.loadI (nnn : Addr12) : Statement (.loadI nnn) :=
  ⟨⟨0xF000#16, 0xA000#16, "load-i"⟩, by decide, rfl, by rw [OpcodeRow.selects, encode, wordNNN_class]; decide⟩

theorem Laws.EncodesInRow.jumpPlusV0 (nnn : Addr12) : Statement (.jumpPlusV0 nnn) :=
  ⟨⟨0xF000#16, 0xB000#16, "jump-plus-v0"⟩, by decide, rfl, by rw [OpcodeRow.selects, encode, wordNNN_class]; decide⟩

theorem Laws.EncodesInRow.randomAndMask (x : Nibble) (kk : Byte) : Statement (.randomAndMask x kk) :=
  ⟨⟨0xF000#16, 0xC000#16, "random-and-mask"⟩, by decide, rfl, by rw [OpcodeRow.selects, encode, wordXKK_class]; decide⟩

theorem Laws.EncodesInRow.drawSprite (x y n : Nibble) : Statement (.drawSprite x y n) :=
  ⟨⟨0xF000#16, 0xD000#16, "draw-sprite"⟩, by decide, rfl, by rw [OpcodeRow.selects, encode, wordXYN_class]; decide⟩

theorem Laws.EncodesInRow.skipIfKeyPressed (x : Nibble) : Statement (.skipIfKeyPressed x) :=
  ⟨⟨0xF0FF#16, 0xE09E#16, "skip-if-key-pressed"⟩, by decide, rfl, by rw [OpcodeRow.selects, encode, wordXKK_low]; decide⟩

theorem Laws.EncodesInRow.skipIfKeyNotPressed (x : Nibble) : Statement (.skipIfKeyNotPressed x) :=
  ⟨⟨0xF0FF#16, 0xE0A1#16, "skip-if-key-not-pressed"⟩, by decide, rfl, by rw [OpcodeRow.selects, encode, wordXKK_low]; decide⟩

theorem Laws.EncodesInRow.loadVxFromDelayTimer (x : Nibble) : Statement (.loadVxFromDelayTimer x) :=
  ⟨⟨0xF0FF#16, 0xF007#16, "load-vx-from-delay-timer"⟩, by decide, rfl, by rw [OpcodeRow.selects, encode, wordXKK_low]; decide⟩

theorem Laws.EncodesInRow.loadVxBlockingOnKey (x : Nibble) : Statement (.loadVxBlockingOnKey x) :=
  ⟨⟨0xF0FF#16, 0xF00A#16, "load-vx-blocking-on-key"⟩, by decide, rfl, by rw [OpcodeRow.selects, encode, wordXKK_low]; decide⟩

theorem Laws.EncodesInRow.loadDelayTimer (x : Nibble) : Statement (.loadDelayTimer x) :=
  ⟨⟨0xF0FF#16, 0xF015#16, "load-delay-timer"⟩, by decide, rfl, by rw [OpcodeRow.selects, encode, wordXKK_low]; decide⟩

theorem Laws.EncodesInRow.loadSoundTimer (x : Nibble) : Statement (.loadSoundTimer x) :=
  ⟨⟨0xF0FF#16, 0xF018#16, "load-sound-timer"⟩, by decide, rfl, by rw [OpcodeRow.selects, encode, wordXKK_low]; decide⟩

theorem Laws.EncodesInRow.addToI (x : Nibble) : Statement (.addToI x) :=
  ⟨⟨0xF0FF#16, 0xF01E#16, "add-to-i"⟩, by decide, rfl, by rw [OpcodeRow.selects, encode, wordXKK_low]; decide⟩

theorem Laws.EncodesInRow.loadFontAddress (x : Nibble) : Statement (.loadFontAddress x) :=
  ⟨⟨0xF0FF#16, 0xF029#16, "load-font-address"⟩, by decide, rfl, by rw [OpcodeRow.selects, encode, wordXKK_low]; decide⟩

theorem Laws.EncodesInRow.storeBcd (x : Nibble) : Statement (.storeBcd x) :=
  ⟨⟨0xF0FF#16, 0xF033#16, "store-bcd"⟩, by decide, rfl, by rw [OpcodeRow.selects, encode, wordXKK_low]; decide⟩

theorem Laws.EncodesInRow.storeBlock (x : Nibble) : Statement (.storeBlock x) :=
  ⟨⟨0xF0FF#16, 0xF055#16, "store-block"⟩, by decide, rfl, by rw [OpcodeRow.selects, encode, wordXKK_low]; decide⟩

theorem Laws.EncodesInRow.loadBlock (x : Nibble) : Statement (.loadBlock x) :=
  ⟨⟨0xF0FF#16, 0xF065#16, "load-block"⟩, by decide, rfl, by rw [OpcodeRow.selects, encode, wordXKK_low]; decide⟩

end EncodesInRow

end Sys2Proof
end

