-- ==== Sys2Proof/Tests/Slice0.lean ====
section
/-! SUPPORT. Tests of single steps, with expected results from the vectors of spec/95_test_vectors.md (named in brackets) and
the examples of the rules, and a witness for the hypotheses of every statement that has some. -/

namespace Sys2Proof.Tests

open Sys2Proof.Machine

-- one theorem at a time: each in its own thread would ask for more stack than the build allows
set_option Elab.async false

/-- The reset state with some registers, and `I`, set. -/
def start (regs : List (Nibble × Byte)) (i : Word) : State :=
  (regs.foldl (fun s r => s.setReg r.1 r.2) State.reset).setI i

/-- One step with a word placed at `pc` goes on, to a state of which `p` holds. -/
def goesOn (s : State) (w : Nat) (p : State → Bool) : Bool :=
  match step (s.withFetchWord 16 w) with
  | .next t => p t
  | .fault _ => false
  | .refused _ => false

/-- The fault of an outcome, if it is one. -/
def faultOf (r : Result) : Option Fault :=
  match r with
  | .next _ => none
  | .fault f => some f
  | .refused _ => none

/-- One step with a word placed at `pc` stops with this fault. -/
def stops (s : State) (w : Nat) (f : Fault) : Bool := faultOf (step (s.withFetchWord 16 w)) == some f

/-- The state an instruction goes on to; the state itself where it does not. -/
def after (i : Instr) (s : State) : State :=
  match exec i s with
  | .next t => t
  | .fault _ => s
  | .refused _ => s

/-- The set pixels are exactly the ones listed, as (row, column). -/
def pixelsAre (s : State) (set : List (Nat × Nat)) : Bool :=
  (List.range 32).all (fun r => (List.range 64).all (fun c => s.pixel r c == set.contains (r, c)))

/-- The reset state with one pixel set. -/
def withPixel (r c : Nat) : State := Claims.setPixel State.reset r c true

/-! ### Well-formedness -/

theorem test_image_too_long : imageFits (List.replicate 2 0#8) 4095 = false := by decide
theorem test_image_at_the_top : imageFits (List.replicate 2 0#8) 4094 = true := by decide
theorem test_empty_image_at_4096 : imageFits [] 4096 = true := by decide
theorem test_empty_image_past_4096 : imageFits [] 4097 = false := by decide
theorem test_font_image_too_long : fontImageFits (List.replicate 513 0#8) = false := by decide +kernel
theorem test_font_image_default : fontImageFits defaultFontImage = true := by decide
theorem test_instr_well_formed : (Instr.drawSprite 0xF#4 0xF#4 0xF#4).wellFormed = true := by decide

/-! ### Decoding: words written out from the table of spec/30_encoding.md R75 and the formats of R72. -/

theorem test_decode_clearScreen : decodeTableWord 16 0b0000000011100000 = some .clearScreen := by decide
theorem test_decode_ret : decodeTableWord 16 0b0000000011101110 = some .ret := by decide
theorem test_decode_jump : decodeTableWord 16 0b0001001011110001 = some (.jump 0x2F1#12) := by decide
theorem test_decode_call : decodeTableWord 16 0b0010001011110001 = some (.call 0x2F1#12) := by decide
theorem test_decode_skipIfEqualByte :
    decodeTableWord 16 0b0011001101011100 = some (.skipIfEqualByte 3#4 0x5C#8) := by decide
theorem test_decode_skipIfNotEqualByte :
    decodeTableWord 16 0b0100001101011100 = some (.skipIfNotEqualByte 3#4 0x5C#8) := by decide
theorem test_decode_skipIfEqualReg :
    decodeTableWord 16 0b0101001110100000 = some (.skipIfEqualReg 3#4 0xA#4) := by decide
theorem test_decode_loadByte : decodeTableWord 16 0b0110001101011100 = some (.loadByte 3#4 0x5C#8) := by decide
theorem test_decode_addByte : decodeTableWord 16 0b0111001101011100 = some (.addByte 3#4 0x5C#8) := by decide
theorem test_decode_loadReg : decodeTableWord 16 0b1000001110100000 = some (.loadReg 3#4 0xA#4) := by decide
theorem test_decode_orReg : decodeTableWord 16 0b1000001110100001 = some (.orReg 3#4 0xA#4) := by decide
theorem test_decode_andReg : decodeTableWord 16 0b1000001110100010 = some (.andReg 3#4 0xA#4) := by decide
theorem test_decode_xorReg : decodeTableWord 16 0b1000001110100011 = some (.xorReg 3#4 0xA#4) := by decide
theorem test_decode_addReg : decodeTableWord 16 0b1000001110100100 = some (.addReg 3#4 0xA#4) := by decide
theorem test_decode_subReg : decodeTableWord 16 0b1000001110100101 = some (.subReg 3#4 0xA#4) := by decide
theorem test_decode_shiftRight : decodeTableWord 16 0b1000001110100110 = some (.shiftRight 3#4 0xA#4) := by decide
theorem test_decode_subnReg : decodeTableWord 16 0b1000001110100111 = some (.subnReg 3#4 0xA#4) := by decide
theorem test_decode_shiftLeft : decodeTableWord 16 0b1000001110101110 = some (.shiftLeft 3#4 0xA#4) := by decide
theorem test_decode_skipIfNotEqualReg :
    decodeTableWord 16 0b1001001110100000 = some (.skipIfNotEqualReg 3#4 0xA#4) := by decide
theorem test_decode_loadI : decodeTableWord 16 0b1010001011110001 = some (.loadI 0x2F1#12) := by decide
theorem test_decode_jumpPlusV0 : decodeTableWord 16 0b1011001011110001 = some (.jumpPlusV0 0x2F1#12) := by decide
theorem test_decode_randomAndMask :
    decodeTableWord 16 0b1100001101011100 = some (.randomAndMask 3#4 0x5C#8) := by decide
theorem test_decode_drawSprite : decodeTableWord 16 0b1101001110100101 = some (.drawSprite 3#4 0xA#4 5#4) := by decide
theorem test_decode_skipIfKeyPressed : decodeTableWord 16 0b1110001110011110 = some (.skipIfKeyPressed 3#4) := by decide
theorem test_decode_skipIfKeyNotPressed :
    decodeTableWord 16 0b1110001110100001 = some (.skipIfKeyNotPressed 3#4) := by decide
theorem test_decode_loadVxFromDelayTimer :
    decodeTableWord 16 0b1111001100000111 = some (.loadVxFromDelayTimer 3#4) := by decide
theorem test_decode_loadVxBlockingOnKey :
    decodeTableWord 16 0b1111001100001010 = some (.loadVxBlockingOnKey 3#4) := by decide
theorem test_decode_loadDelayTimer : decodeTableWord 16 0b1111001100010101 = some (.loadDelayTimer 3#4) := by decide
theorem test_decode_loadSoundTimer : decodeTableWord 16 0b1111001100011000 = some (.loadSoundTimer 3#4) := by decide
theorem test_decode_addToI : decodeTableWord 16 0b1111001100011110 = some (.addToI 3#4) := by decide
theorem test_decode_loadFontAddress : decodeTableWord 16 0b1111001100101001 = some (.loadFontAddress 3#4) := by decide
theorem test_decode_storeBcd : decodeTableWord 16 0b1111001100110011 = some (.storeBcd 3#4) := by decide
theorem test_decode_storeBlock : decodeTableWord 16 0b1111001101010101 = some (.storeBlock 3#4) := by decide
theorem test_decode_loadBlock : decodeTableWord 16 0b1111001101100101 = some (.loadBlock 3#4) := by decide

/-- Unknown words [DE2, SK11, KY11, MM22 and the list under AL54]. -/
theorem test_decode_unknown : [0x0000, 0x0123, 0x00E1, 0x00EF, 0x0FFF, 0x00FE, 0x5121, 0x9121, 0x8128, 0x8129, 0x812A,
    0x812B, 0x812C, 0x812D, 0x812F, 0xE19F, 0xE000, 0xE1A2, 0xF000, 0xF134, 0xF01F, 0xFFFF].all
      (fun w => decodeTableWord 16 w == none) = true := by decide

/-- The bytes 00 E0 are clear-screen, the bytes E0 00 are the unknown word E000 [DE3]. -/
theorem test_decode_big_endian : decodeBytes [0x00#8, 0xE0#8, 0xAA#8] = .ok (.clearScreen, [0xAA#8]) ∧
    decodeBytes [0xE0#8, 0x00#8] = .error (.unknownOpcode 0xE000#16) ∧ decodeBytes [0x12#8] = .error .truncated := by decide

/-! ### One step of each instruction -/

/-- [FL1] -/
theorem test_clearScreen : goesOn (withPixel 2 4) 0x00E0 (fun t => pixelsAre t [] && t.pc == 0x202#16) = true := by
  decide +kernel
/-- [FL3] -/
theorem test_return : goesOn ((State.reset.setSp 1#4).setStackAt 1#4 0x0ABC#16) 0x00EE
    (fun t => t.pc == 0x0ABC#16 && t.sp == 0#4 && t.stackAt 1#4 == 0x0ABC#16) = true := by decide +kernel
/-- [FL2] -/
theorem test_return_guard : stops State.reset 0x00EE (.stackUnderflow 0x200#16) = true := by decide +kernel
/-- [FL6] -/
theorem test_jump_odd : goesOn State.reset 0x1201 (fun t => t.pc == 0x201#16) = true := by decide +kernel
/-- [FL8] -/
theorem test_call : goesOn ((State.reset.setSp 14#4).setPc 0x250#16) 0x2300
    (fun t => t.sp == 15#4 && t.stackAt 15#4 == 0x252#16 && t.pc == 0x300#16) = true := by decide +kernel
/-- [FL9] -/
theorem test_call_guard : stops ((State.reset.setSp 15#4).setPc 0x250#16) 0x2300 (.stackOverflow 0x250#16) = true := by
  decide +kernel
/-- [SK1, SK2] -/
theorem test_skipIfEqualByte : goesOn (start [(1#4, 0x42#8)] 0#16) 0x3142 (fun t => t.pc == 0x204#16) = true ∧
    goesOn (start [(1#4, 0x42#8)] 0#16) 0x3143 (fun t => t.pc == 0x202#16) = true := by decide +kernel
/-- [SK3, SK4] -/
theorem test_skipIfNotEqualByte : goesOn (start [(1#4, 0x42#8)] 0#16) 0x4142 (fun t => t.pc == 0x202#16) = true ∧
    goesOn (start [(1#4, 0x42#8)] 0#16) 0x4143 (fun t => t.pc == 0x204#16) = true := by decide +kernel
/-- [SK5, SK6] -/
theorem test_skipIfEqualReg : goesOn (start [(1#4, 7#8), (2#4, 7#8)] 0#16) 0x5120 (fun t => t.pc == 0x204#16) = true ∧
    goesOn (start [(1#4, 7#8), (2#4, 8#8)] 0#16) 0x5120 (fun t => t.pc == 0x202#16) = true := by decide +kernel
/-- [SK7, SK8] -/
theorem test_skipIfNotEqualReg : goesOn (start [(1#4, 7#8), (2#4, 8#8)] 0#16) 0x9120 (fun t => t.pc == 0x204#16) = true ∧
    goesOn (start [(1#4, 7#8), (2#4, 7#8)] 0#16) 0x9120 (fun t => t.pc == 0x202#16) = true := by decide +kernel
/-- No wrap of `pc` at 4096 [SK12]. -/
theorem test_skip_near_the_top : goesOn (State.reset.setPc 0xFFE#16) 0x3000 (fun t => t.pc == 0x1002#16 &&
    faultOf (step t) == some (.memoryOutOfBounds 0x1002)) = true := by decide +kernel
/-- [IM2] -/
theorem test_loadByte : goesOn (start [(15#4, 1#8)] 0#16) 0x6F00 (fun t => t.reg 15#4 == 0#8) = true := by decide +kernel
/-- [IM6] -/
theorem test_addByte : goesOn (start [(3#4, 0x10#8), (15#4, 7#8)] 0#16) 0x73FF
    (fun t => t.reg 3#4 == 0x0F#8 && t.reg 15#4 == 7#8) = true := by decide +kernel
/-- The sum, not a carry [IM5]. -/
theorem test_addByte_vf : goesOn (start [(15#4, 0xFF#8)] 0#16) 0x7F02 (fun t => t.reg 15#4 == 1#8) = true := by
  decide +kernel
/-- [AL1] -/
theorem test_loadReg : goesOn (start [(1#4, 0x11#8), (2#4, 0x22#8), (15#4, 9#8)] 0#16) 0x8120
    (fun t => t.reg 1#4 == 0x22#8 && t.reg 15#4 == 9#8) = true := by decide +kernel
/-- [AL2, AL41] -/
theorem test_or : goesOn (start [(1#4, 0xF0#8), (2#4, 0x0F#8), (15#4, 9#8)] 0#16) 0x8121
      (fun t => t.reg 1#4 == 0xFF#8 && t.reg 15#4 == 9#8) = true ∧
    goesOn (start [(2#4, 0x80#8), (15#4, 1#8)] 0#16) 0x8F21 (fun t => t.reg 15#4 == 0x81#8) = true := by decide +kernel
/-- [AL3] -/
theorem test_and : goesOn (start [(1#4, 0xF0#8), (2#4, 0x3C#8), (15#4, 9#8)] 0#16) 0x8122
    (fun t => t.reg 1#4 == 0x30#8 && t.reg 15#4 == 9#8) = true := by decide +kernel
/-- [AL4, AL5] -/
theorem test_xor : goesOn (start [(1#4, 0xF0#8), (2#4, 0x3C#8), (15#4, 9#8)] 0#16) 0x8123
      (fun t => t.reg 1#4 == 0xCC#8 && t.reg 15#4 == 9#8) = true ∧
    goesOn (start [(1#4, 0x55#8)] 0#16) 0x8113 (fun t => t.reg 1#4 == 0#8) = true := by decide +kernel
/-- [AL6, AL7, AL9] -/
theorem test_addReg : goesOn (start [(1#4, 0xFF#8), (2#4, 1#8)] 0#16) 0x8124
      (fun t => t.reg 1#4 == 0#8 && t.reg 15#4 == 1#8 && t.pc == 0x202#16) = true ∧
    goesOn (start [(1#4, 0x7F#8), (2#4, 0x80#8)] 0#16) 0x8124 (fun t => t.reg 1#4 == 0xFF#8 && t.reg 15#4 == 0#8) = true ∧
    goesOn (start [(1#4, 0x90#8)] 0#16) 0x8114 (fun t => t.reg 1#4 == 0x20#8 && t.reg 15#4 == 1#8) = true := by
  decide +kernel
/-- VF as destination and as source [AL30, AL31, AL50, AL54]. -/
theorem test_addReg_vf : goesOn (start [(15#4, 0xFF#8), (2#4, 2#8)] 0#16) 0x8F24 (fun t => t.reg 15#4 == 1#8) = true ∧
    goesOn (start [(15#4, 1#8), (2#4, 2#8)] 0#16) 0x8F24 (fun t => t.reg 15#4 == 0#8) = true ∧
    goesOn (start [(1#4, 0xFF#8), (15#4, 1#8)] 0#16) 0x81F4 (fun t => t.reg 1#4 == 0#8 && t.reg 15#4 == 1#8) = true ∧
    goesOn (start [(15#4, 0x90#8)] 0#16) 0x8FF4 (fun t => t.reg 15#4 == 1#8) = true := by decide +kernel
/-- [AL10, AL11, AL12] -/
theorem test_subReg : goesOn (start [(1#4, 5#8), (2#4, 5#8)] 0#16) 0x8125
      (fun t => t.reg 1#4 == 0#8 && t.reg 15#4 == 1#8) = true ∧
    goesOn (start [(1#4, 5#8), (2#4, 6#8)] 0#16) 0x8125 (fun t => t.reg 1#4 == 0xFF#8 && t.reg 15#4 == 0#8) = true ∧
    goesOn (start [(2#4, 0xFF#8)] 0#16) 0x8125 (fun t => t.reg 1#4 == 1#8 && t.reg 15#4 == 0#8) = true := by decide +kernel
/-- [AL32, AL33, AL52] -/
theorem test_subReg_vf : goesOn (start [(15#4, 3#8), (3#4, 3#8)] 0#16) 0x8F35 (fun t => t.reg 15#4 == 1#8) = true ∧
    goesOn (start [(15#4, 1#8), (2#4, 2#8)] 0#16) 0x8F25 (fun t => t.reg 15#4 == 0#8) = true ∧
    goesOn (start [(15#4, 1#8)] 0#16) 0x81F5 (fun t => t.reg 1#4 == 0xFF#8 && t.reg 15#4 == 0#8) = true := by decide +kernel
/-- V2 is not read [AL14, AL15]. -/
theorem test_shiftRight : goesOn (start [(1#4, 0x81#8), (2#4, 0xAA#8)] 0#16) 0x8126
      (fun t => t.reg 1#4 == 0x40#8 && t.reg 15#4 == 1#8 && t.reg 2#4 == 0xAA#8) = true ∧
    goesOn (start [(1#4, 0xFE#8)] 0#16) 0x8126 (fun t => t.reg 1#4 == 0x7F#8 && t.reg 15#4 == 0#8) = true := by decide +kernel
/-- [AL35] -/
theorem test_shiftRight_vf : goesOn (start [(15#4, 2#8)] 0#16) 0x8F26 (fun t => t.reg 15#4 == 0#8) = true := by
  decide +kernel
/-- [AL16, AL17, AL18] -/
theorem test_subnReg : goesOn (start [(1#4, 5#8), (2#4, 6#8)] 0#16) 0x8127
      (fun t => t.reg 1#4 == 1#8 && t.reg 15#4 == 1#8) = true ∧
    goesOn (start [(1#4, 5#8), (2#4, 5#8)] 0#16) 0x8127 (fun t => t.reg 1#4 == 0#8 && t.reg 15#4 == 0#8) = true ∧
    goesOn (start [(1#4, 6#8), (2#4, 5#8)] 0#16) 0x8127 (fun t => t.reg 1#4 == 0xFF#8 && t.reg 15#4 == 0#8) = true := by
  decide +kernel
/-- [AL36, AL53] -/
theorem test_subnReg_vf : goesOn (start [(15#4, 1#8), (2#4, 2#8)] 0#16) 0x8F27 (fun t => t.reg 15#4 == 1#8) = true ∧
    goesOn (start [(15#4, 1#8)] 0#16) 0x81F7 (fun t => t.reg 1#4 == 1#8 && t.reg 15#4 == 1#8) = true := by decide +kernel
/-- V2 is not read [AL21, AL22]. -/
theorem test_shiftLeft : goesOn (start [(1#4, 0x81#8), (2#4, 0xAA#8)] 0#16) 0x812E
      (fun t => t.reg 1#4 == 0x02#8 && t.reg 15#4 == 1#8 && t.reg 2#4 == 0xAA#8) = true ∧
    goesOn (start [(1#4, 0x7F#8)] 0#16) 0x812E (fun t => t.reg 1#4 == 0xFE#8 && t.reg 15#4 == 0#8) = true := by decide +kernel
/-- [AL38, AL39] -/
theorem test_shiftLeft_vf : goesOn (start [(15#4, 0x80#8)] 0#16) 0x8F2E (fun t => t.reg 15#4 == 1#8) = true ∧
    goesOn (start [(15#4, 0x40#8)] 0#16) 0x8F2E (fun t => t.reg 15#4 == 0#8) = true := by decide +kernel
/-- [IX1] -/
theorem test_loadI : goesOn State.reset 0xAFFF (fun t => t.i == 0xFFF#16 && t.pc == 0x202#16) = true := by decide +kernel
/-- Not reduced to 12 bits [IX3]. -/
theorem test_jumpPlusV0 : goesOn (start [(0#4, 0xFF#8)] 0#16) 0xBFFF (fun t => t.pc == 0x10FE#16 &&
    faultOf (step t) == some (.memoryOutOfBounds 0x10FE)) = true := by decide +kernel
/-- Zero whatever the draw [IX6]. -/
theorem test_randomAndMask_zero : exec (.randomAndMask 1#4 0#8) (start [(1#4, 9#8)] 0#16) =
    .next ((start [(1#4, 9#8)] 0#16).setReg 1#4 0#8).consumeDraw.advance := by
  rw [exec_randomAndMask, BitVec.and_zero]
/-- The draw itself, and the next draw is another free value [IX5]. -/
theorem test_randomAndMask_draws : (after (.randomAndMask 1#4 0xFF#8) State.reset).reg 1#4 = Config.randomByte 0 ∧
    (after (.randomAndMask 1#4 0xFF#8) (after (.randomAndMask 2#4 0xFF#8) State.reset)).reg 1#4 =
      Config.randomByte 1 := by
  have h : ∀ b : Byte, b &&& 0xFF#8 = b := fun b => BitVec.and_allOnes
  simp [after, State.draw8, State.reset, h]
/-- The last position that fits [DR4], and bit 7 leftmost with the origin wrapped [DR7]. -/
theorem test_drawSprite : goesOn ((start [(0#4, 56#8), (1#4, 31#8)] 0x300#16).writeBytes 0x300 [0xFF#8]) 0xD011
      (fun t => pixelsAre t [(31, 56), (31, 57), (31, 58), (31, 59), (31, 60), (31, 61), (31, 62), (31, 63)] &&
        t.reg 15#4 == 0#8) = true ∧
    goesOn ((start [(0#4, 72#8), (1#4, 35#8)] 0x300#16).writeBytes 0x300 [0x80#8]) 0xD011
      (fun t => pixelsAre t [(3, 8)] && t.reg 15#4 == 0#8 && t.pc == 0x202#16) = true := by decide +kernel
/-- A set pixel under a 0 bit is no collision [DR14], and the flag is over the whole sprite [DR15]. -/
theorem test_drawSprite_collision : goesOn (((withPixel 0 0).setI 0x300#16).writeBytes 0x300 [0x00#8, 0x80#8]) 0xD012
      (fun t => pixelsAre t [(0, 0), (1, 0)] && t.reg 15#4 == 0#8) = true ∧
    goesOn (((withPixel 1 0).setI 0x300#16).writeBytes 0x300 [0x00#8, 0x80#8]) 0xD012
      (fun t => pixelsAre t [] && t.reg 15#4 == 1#8) = true := by decide +kernel
/-- [KY1, KY5] -/
theorem test_skipIfKeyPressed : goesOn ((start [(1#4, 5#8)] 0#16).setKeyAt 5#4 true) 0xE19E (fun t => t.pc == 0x204#16) = true ∧
    stops (start [(1#4, 0x10#8)] 0#16) 0xE19E (.keyIndexOutOfRange 0x10#8) = true := by decide +kernel
/-- [KY3, KY4, KY6] -/
theorem test_skipIfKeyNotPressed :
    goesOn ((start [(1#4, 5#8)] 0#16).setKeyAt 5#4 true) 0xE1A1 (fun t => t.pc == 0x202#16) = true ∧
    goesOn (start [(1#4, 5#8)] 0#16) 0xE1A1 (fun t => t.pc == 0x204#16) = true ∧
    stops (start [(1#4, 0xFF#8)] 0#16) 0xE1A1 (.keyIndexOutOfRange 0xFF#8) = true := by decide +kernel
/-- [KY7] -/
theorem test_keyWait : goesOn State.reset 0xF50A (fun t => decide (t = State.reset.withFetchWord 16 0xF50A)) = true := by
  decide +kernel
/-- The lowest index [KY8]. -/
theorem test_keyWait_ends : goesOn ((State.reset.setKeyAt 7#4 true).setKeyAt 3#4 true) 0xF50A
    (fun t => t.reg 5#4 == 3#8 && t.pc == 0x202#16) = true := by decide +kernel
/-- [TM1] -/
theorem test_loadVxFromDelayTimer : goesOn (State.reset.setDt 0x2A#8) 0xF307
    (fun t => t.reg 3#4 == 0x2A#8 && t.dt == 0x2A#8 && t.pc == 0x202#16) = true := by decide +kernel
/-- [TM2] -/
theorem test_loadDelayTimer : goesOn (start [(3#4, 0x3C#8)] 0#16) 0xF315 (fun t => t.dt == 0x3C#8 && t.st == 0#8) = true := by
  decide +kernel
/-- [TM3] -/
theorem test_loadSoundTimer : goesOn (start [(3#4, 5#8)] 0#16) 0xF318 (fun t => t.st == 5#8 && t.dt == 0#8) = true := by
  decide +kernel
/-- [MM2, MM3] -/
theorem test_addToI : goesOn (start [(1#4, 1#8)] 0xFFF#16) 0xF11E (fun t => t.i == 0x1000#16 && t.reg 15#4 == 0#8) = true ∧
    goesOn (start [(1#4, 2#8)] 0xFFFF#16) 0xF11E (fun t => t.i == 1#16 && t.reg 15#4 == 0#8) = true := by decide +kernel
/-- [MM6, MM7] -/
theorem test_loadFontAddress : goesOn (start [(1#4, 0x0F#8)] 0#16) 0xF129 (fun t => t.i == 0x4B#16 &&
      (List.range 5).map (fun k => t.byteAt (0x4B + k)) == [0xF0#8, 0x80#8, 0xF0#8, 0x80#8, 0x80#8]) = true ∧
    goesOn (start [(1#4, 0xFF#8)] 0#16) 0xF129 (fun t => t.i == 0x4FB#16) = true := by decide +kernel
/-- [MM8, MM11] -/
theorem test_storeBcd : goesOn (start [(1#4, 156#8)] 0x300#16) 0xF133
      (fun t => [t.byteAt 0x300, t.byteAt 0x301, t.byteAt 0x302] == [1#8, 5#8, 6#8] && t.i == 0x300#16) = true ∧
    goesOn (start [(1#4, 255#8)] 0xFFD#16) 0xF133
      (fun t => [t.byteAt 0xFFD, t.byteAt 0xFFE, t.byteAt 0xFFF] == [2#8, 5#8, 5#8]) = true := by decide +kernel
/-- [MM12, MM13] -/
theorem test_storeBcd_faults : stops (start [] 0xFFE#16) 0xF133 (.memoryOutOfBounds 0x1000) = true ∧
    stops (start [] 0x1005#16) 0xF133 (.memoryOutOfBounds 0x1005) = true := by decide +kernel
/-- Inclusive, and `I` kept [MM14]. -/
theorem test_storeBlock : goesOn (start [(0#4, 0xAA#8), (1#4, 0xBB#8), (2#4, 0xCC#8), (3#4, 0xDD#8)] 0x300#16) 0xF255
    (fun t => [t.byteAt 0x300, t.byteAt 0x301, t.byteAt 0x302, t.byteAt 0x303] == [0xAA#8, 0xBB#8, 0xCC#8, 0#8] &&
      t.i == 0x300#16) = true := by decide +kernel
/-- [MM17, MM19] -/
theorem test_storeBlock_edge : stops (start [] 0xFF1#16) 0xFF55 (.memoryOutOfBounds 0x1000) = true ∧
    goesOn (start [(0#4, 7#8)] 0xFFF#16) 0xF055 (fun t => t.byteAt 0xFFF == 7#8) = true := by decide +kernel
/-- [MM15] -/
theorem test_loadBlock : goesOn ((start [(3#4, 9#8)] 0x300#16).writeBytes 0x300 [1#8, 2#8, 3#8, 4#8]) 0xF265
    (fun t => [t.reg 0#4, t.reg 1#4, t.reg 2#4, t.reg 3#4] == [1#8, 2#8, 3#8, 9#8] && t.i == 0x300#16) = true := by
  decide +kernel
/-- VF is loaded like any register [MM20], and the fault loads none [MM18]. -/
theorem test_loadBlock_edge : goesOn ((start [] 0x300#16).writeBytes 0x300 ((List.range 16).map (fun k => BitVec.ofNat 8 (0x10 + k))))
      0xFF65 (fun t => t.reg 15#4 == 0x1F#8 && t.reg 0#4 == 0x10#8) = true ∧
    stops (start [] 0xFF1#16) 0xFF65 (.memoryOutOfBounds 0x1000) = true := by decide +kernel

/-! ### Fetch, memory and host operations -/

/-- The last word of memory can be fetched, and no later one [DE4, DE5, DE6]. -/
theorem test_fetch_edge : goesOn (State.reset.setPc 0xFFE#16) 0x1200 (fun t => t.pc == 0x200#16) = true ∧
    faultOf (step (State.reset.setPc 0xFFF#16)) = some (.memoryOutOfBounds 0x1000) ∧
    faultOf (step (State.reset.setPc 0x1000#16)) = some (.memoryOutOfBounds 0x1000) := by decide +kernel
/-- No alignment [DE7]. -/
theorem test_fetch_odd : goesOn (State.reset.setPc 0x201#16) 0x6A55 (fun t => t.reg 0xA#4 == 0x55#8 && t.pc == 0x203#16) = true := by
  decide +kernel
/-- With nothing loaded the first word is unknown [P6c]. -/
theorem test_reset_step : faultOf (step State.reset) = some (.unknownOpcode 0x0000#16) := by decide +kernel
/-- The canonical form: writing the reset contents back lists nothing, and a font byte overwritten is listed. -/
theorem test_memory_canonical : ((State.reset.writeBytes 0x300 [5#8]).writeBytes 0x300 [0#8]).mem = [] ∧
    (State.reset.writeBytes 0 [0#8]).mem = [(0, 0#8)] ∧ ((State.reset.writeBytes 0 [0#8]).writeBytes 0 [0xF0#8]).mem = [] ∧
    (State.reset.writeBytes 0x301 [1#8]).writeBytes 0x300 [2#8] = State.reset.writeBytes 0x300 [2#8, 1#8] := by decide +kernel
theorem test_memory_ill_formed : Memory.wf [] [(1, 1#8), (0, 1#8)] = false ∧ Memory.wf [] [(0, 0#8)] = false ∧
    Memory.wf [] [(4096, 1#8)] = false ∧ Memory.wf [] [(0, 1#8), (1, 1#8)] = true := by decide
/-- [TM4, TM5] -/
theorem test_tick : ((State.reset.setDt 1#8).tickTimers.dt, (State.reset.setSt 0xFF#8).tickTimers.st,
    (State.reset.setSt 0xFF#8).tickTimers.dt) = (0#8, 0xFE#8, 0#8) := by decide
/-- [HO5, HO6, HO3, HO4] -/
theorem test_load_image : (State.reset.apply (.loadImage [1#8] 0xFFF)).2 = .ok ∧
    (State.reset.apply (.loadImage [1#8] 0x1000)).2 = .imageTooLarge ∧
    (State.reset.apply (.loadImage [] 0x1000)).2 = .ok ∧ (State.reset.apply (.loadImage [] 0x1001)).2 = .imageTooLarge := by
  decide +kernel
/-- [HO9, HO10] -/
theorem test_reset_operation : ((State.reset.setKeyAt 3#4 true).writeBytes 0 [1#8, 2#8]).resetOp =
    State.reset.setKeyAt 3#4 true := by decide +kernel
/-- The scenario L1-8: a call and a return. -/
theorem test_call_return : (after .ret (after (.call 0x204#12) State.reset)).pc = 0x202#16 ∧
    (after .ret (after (.call 0x204#12) State.reset)).sp = 0#4 := by decide +kernel

/-! ### Witnesses: a state and operands that meet the hypotheses of a statement, clause by clause -/

theorem witness_ReturnGoesToTheSavedAddress : (State.reset.setSp 1#4).sp ≠ 0#4 ∧ (State.reset.setSp 15#4).sp ≠ 0#4 ∧
    State.reset.sp = 0#4 := by decide
theorem witness_CallSavesTheReturnAddress : State.reset.sp ≠ 15#4 ∧ (State.reset.setSp 14#4).sp ≠ 15#4 ∧
    (State.reset.setSp 15#4).sp = 15#4 := by decide
theorem witness_ReturnUndoesCall : ∃ t u, exec (.call 0x300#12) (State.reset.setSp 14#4) = .next t ∧ u.sp = t.sp ∧
    u.stackAt u.sp = t.stackAt t.sp ∧ u ≠ t :=
  ⟨_, (after (.call 0x300#12) (State.reset.setSp 14#4)).setI 7#16, rfl, by decide +kernel, by decide +kernel, by decide +kernel⟩
theorem witness_ByteSkipsCompareWithTheImmediate : ((start [(15#4, 0xFF#8)] 0#16).reg 15#4).toNat = (0xFF#8).toNat ∧
    ((start [(15#4, 0xFF#8)] 0#16).reg 15#4).toNat ≠ (0xFE#8).toNat := by decide
theorem witness_RegisterSkipsCompareTwoRegisters : (1#4 : Nibble) ≠ 0#4 ∧ (15#4 : Nibble) ≠ 0#4 ∧
    (State.reset.reg 0#4).toNat = (State.reset.reg 15#4).toNat ∧
    ((start [(15#4, 1#8)] 0#16).reg 0#4).toNat ≠ ((start [(15#4, 1#8)] 0#16).reg 15#4).toNat := by decide
theorem witness_TwoAddBytesAreOne : ∃ t u w, exec (.addByte 15#4 0xFF#8) State.reset = .next t ∧
    exec (.addByte 15#4 2#8) t = .next u ∧ exec (.addByte 15#4 (0xFF#8 + 2#8)) State.reset = .next w ∧ u.reg 15#4 = 1#8 :=
  ⟨_, _, _, rfl, rfl, rfl, by decide +kernel⟩
theorem witness_AddRegSetsTheCarry : (14#4 : Nibble) ≠ 15#4 ∧ (0#4 : Nibble) ≠ 15#4 := by decide
theorem witness_SubRegSetsNoBorrow : (14#4 : Nibble) ≠ 15#4 ∧ (0#4 : Nibble) ≠ 15#4 := by decide
theorem witness_SubnRegSetsStrictlyGreater : (14#4 : Nibble) ≠ 15#4 ∧ (0#4 : Nibble) ≠ 15#4 := by decide
theorem witness_ShiftsCatchTheBitShiftedOut : (14#4 : Nibble) ≠ 15#4 ∧ (0#4 : Nibble) ≠ 15#4 := by decide
theorem witness_RandomAndMaskSetsNoBitOutsideTheMask : (0x00#8 : Byte) = 0x00#8 ∧ (0xFF#8 : Byte) = 0xFF#8 := by decide
/-- The last sprite that fits, and one with no rows at any `I` and any origin. -/
theorem witness_DrawSpriteXorsAndReportsErasure :
    ((start [(0#4, 56#8), (1#4, 17#8)] 0xFF1#16).i.toNat + (15#4 : Nibble).toNat ≤ 4096 ∧
      ((start [(0#4, 56#8), (1#4, 17#8)] 0xFF1#16).reg 0#4).toNat % 64 ≤ 56 ∧
      ((start [(0#4, 56#8), (1#4, 17#8)] 0xFF1#16).reg 1#4).toNat % 32 + (15#4 : Nibble).toNat ≤ 32) ∧
    goesOn (start [(0#4, 56#8), (1#4, 17#8)] 0xFF1#16) 0xD01F (fun _ => true) = true ∧
    (0#4 : Nibble).toNat = 0 ∧ goesOn (start [(0#4, 63#8), (1#4, 31#8)] 0xFFFF#16) 0xD010 (fun _ => true) = true := by
  decide +kernel
/-- The first address, column and row that do not fit, and memory first where both are violated. -/
theorem witness_DrawSpriteFaultsOutsideMemoryOrGrid :
    (1 ≤ (3#4 : Nibble).toNat ∧ (start [(0#4, 60#8)] 0xFFE#16).i.toNat + (3#4 : Nibble).toNat - 1 ≥ 4096) ∧
    ((start [(0#4, 57#8)] 0xFFD#16).i.toNat + (3#4 : Nibble).toNat - 1 < 4096 ∧
      ((start [(0#4, 57#8)] 0xFFD#16).reg 0#4).toNat % 64 > 56) ∧
    ((start [(1#4, 31#8)] 0x300#16).i.toNat + (2#4 : Nibble).toNat - 1 < 4096 ∧
      ((start [(1#4, 31#8)] 0x300#16).reg 1#4).toNat % 32 + (2#4 : Nibble).toNat > 32) ∧
    stops (start [(0#4, 60#8)] 0xFFE#16) 0xD013 (.memoryOutOfBounds 0x1000) = true ∧
    stops (start [(0#4, 57#8)] 0xFFD#16) 0xD013 (.displayOutOfBounds 57 0 3) = true ∧
    stops (start [(1#4, 31#8)] 0x300#16) 0xD012 (.displayOutOfBounds 0 31 2) = true := by decide +kernel
theorem witness_DrawingTwiceRestoresTheDisplay : ∃ t u : State, exec (.drawSprite 0#4 1#4 5#4) State.reset = .next t ∧
    (∀ r c, r < 32 → c < 64 → u.pixel r c = t.pixel r c) ∧ u.i = State.reset.i ∧
    (∀ a, u.byteAt a = State.reset.byteAt a) ∧ u.reg 0#4 = State.reset.reg 0#4 ∧ u.reg 1#4 = State.reset.reg 1#4 ∧
    t.pixel 0 0 = true :=
  ⟨_, after (.drawSprite 0#4 1#4 5#4) State.reset, rfl, fun _ _ _ _ => rfl, by decide +kernel, fun _ => rfl,
    by decide +kernel, by decide +kernel, by decide +kernel⟩
theorem witness_DrawSpriteRefinesThePixelLoops :
    (1 ≤ (3#4 : Nibble).toNat ∧ (start [] 0xFFE#16).i.toNat + (3#4 : Nibble).toNat - 1 ≥ 4096) ∧
    (¬(1 ≤ (3#4 : Nibble).toNat ∧ (start [(0#4, 57#8)] 0xFFD#16).i.toNat + (3#4 : Nibble).toNat - 1 ≥ 4096) ∧
      1 ≤ (3#4 : Nibble).toNat ∧ ((start [(0#4, 57#8)] 0xFFD#16).reg 0#4).toNat % 64 + 7 > 63) ∧
    (¬(1 ≤ (0#4 : Nibble).toNat ∧ (start [(0#4, 63#8)] 0xFFFF#16).i.toNat + (0#4 : Nibble).toNat - 1 ≥ 4096) ∧
      ¬(1 ≤ (0#4 : Nibble).toNat ∧ (((start [(0#4, 63#8)] 0xFFFF#16).reg 0#4).toNat % 64 + 7 > 63 ∨
        ((start [(0#4, 63#8)] 0xFFFF#16).reg 1#4).toNat % 32 + (0#4 : Nibble).toNat - 1 > 31))) ∧
    (∃ t, exec (.drawSprite 0#4 1#4 5#4) State.reset = .next t ∧ t.pixel 0 0 = true) :=
  ⟨by decide +kernel, by decide +kernel, by decide +kernel, _, rfl, by decide +kernel⟩
theorem witness_KeySkipsReadTheKeyOfVx : ((start [(1#4, 15#8)] 0#16).reg 1#4).toNat = (15#4 : Nibble).toNat ∧
    ((start [(1#4, 15#8)] 0#16).setKeyAt 15#4 true).keyAt 15#4 = true ∧ (start [(1#4, 15#8)] 0#16).keyAt 15#4 = false ∧
    ((start [(1#4, 16#8)] 0#16).reg 1#4).toNat > 15 := by decide
theorem witness_KeyWaitTakesTheSmallestPressedKey : ((State.reset.setKeyAt 15#4 true).keyAt 15#4 = true ∧
      ∀ j : Nibble, j.toNat < (15#4 : Nibble).toNat → (State.reset.setKeyAt 15#4 true).keyAt j = false) ∧
    (State.reset.setKeyAt 0#4 true).keyAt 0#4 = true ∧ (∀ k : Nibble, State.reset.keyAt k = false) := by decide +kernel
theorem witness_StoreBcdWritesThreeDigits :
    (start [] 4093#16).i.toNat + 2 < 4096 ∧ (start [] 4094#16).i.toNat + 2 ≥ 4096 := by decide
theorem witness_StoreBlockWritesV0ToVx : (start [] 4080#16).i.toNat + (15#4 : Nibble).toNat < 4096 ∧
    (start [] 4081#16).i.toNat + (15#4 : Nibble).toNat ≥ 4096 ∧ (start [] 4095#16).i.toNat + (0#4 : Nibble).toNat < 4096 := by
  decide
theorem witness_LoadBlockReadsV0ToVx : (start [] 4080#16).i.toNat + (15#4 : Nibble).toNat < 4096 ∧
    (start [] 4081#16).i.toNat + (15#4 : Nibble).toNat ≥ 4096 ∧ (1#4 : Nibble).toNat > (0#4 : Nibble).toNat ∧
    (15#4 : Nibble).toNat ≤ (15#4 : Nibble).toNat := by decide
theorem witness_LoadBlockUndoesStoreBlock : ∃ t u : State, exec (.storeBlock 15#4) (start [(15#4, 9#8)] 4080#16) = .next t ∧
    u.i = (start [(15#4, 9#8)] 4080#16).i ∧
    (∀ a, (start [(15#4, 9#8)] 4080#16).i.toNat ≤ a → a ≤ (start [(15#4, 9#8)] 4080#16).i.toNat + (15#4 : Nibble).toNat →
      u.byteAt a = t.byteAt a) ∧ u.reg 15#4 = 0#8 :=
  ⟨_, (after (.storeBlock 15#4) (start [(15#4, 9#8)] 4080#16)).setReg 15#4 0#8, rfl, by decide +kernel, fun _ _ _ => rfl,
    by decide +kernel⟩
theorem witness_EveryInstructionKeepsWhatItDoesNotWrite :
    ∃ t, exec (.storeBcd 1#4) (start [(1#4, 255#8)] 0x300#16) = .next t ∧ t.byteAt 0x300 = 2#8 := ⟨_, rfl, by decide +kernel⟩
theorem witness_OnlySixInstructionsWriteVfAsAFlag :
    (∃ t, exec (.addReg 1#4 2#4) State.reset = .next t ∧ writesFlag (.addReg 1#4 2#4) = true) ∧
    (∃ t, exec (.addByte 14#4 1#8) State.reset = .next t ∧ writesFlag (.addByte 14#4 1#8) = false ∧
      writesOrdinary 15#4 (.addByte 14#4 1#8) = false) := ⟨⟨_, rfl, by decide⟩, _, rfl, by decide, by decide⟩
theorem witness_RegistersAreWrittenAsTheAccessTableSays :
    (∃ t, exec (.addReg 1#4 2#4) State.reset = .next t ∧ writesOrdinary 14#4 (.addReg 1#4 2#4) = false ∧
      (14#4 = (15#4 : Nibble) → writesFlag (.addReg 1#4 2#4) = false)) ∧
    (∃ t, exec (.loadBlock 14#4) State.reset = .next t ∧ writesOrdinary 15#4 (.loadBlock 14#4) = false ∧
      (15#4 = (15#4 : Nibble) → writesFlag (.loadBlock 14#4) = false)) :=
  ⟨⟨_, rfl, by decide, by decide⟩, _, rfl, by decide, by decide⟩
theorem witness_PcAdvancesAsTheTableSays : (∃ t, exec (.skipIfEqualByte 0#4 0#8) (State.reset.setPc 0xFFFE#16) = .next t ∧
      t.pc = 2#16) ∧ (∃ f, step State.reset = .fault f) := ⟨⟨_, rfl, by decide +kernel⟩, _, rfl⟩
theorem witness_EncodeUndoesDecode : decodeWord 0x81F6#16 = some (.shiftRight 1#4 15#4) := by decide
theorem witness_DecodingFollowsTheMasks :
    (⟨0xF00F#16, 0x8006#16, "shift-right"⟩ : OpcodeRow) ∈ opcodeTable ∧
    (⟨0xF00F#16, 0x8006#16, "shift-right"⟩ : OpcodeRow).selects 0x81F6#16 = true ∧
    decodeWord 0x81F6#16 = some (.shiftRight 1#4 15#4) ∧ decodeWord 0xFFFF#16 = none := by decide +kernel
theorem witness_MemoryPrimitivesCheckTheAddress : 4095 ≤ 4095 ∧ 4096 ≥ 4096 ∧ (4094 : Nat) ≠ 4095 := by decide
theorem witness_FetchIsBigEndianAndChecked : (State.reset.setPc 0xFFE#16).pc.toNat + 1 ≤ 4095 ∧
    (State.reset.setPc 0xFFF#16).pc.toNat = 0xFFF ∧ (State.reset.setPc 0x1000#16).pc.toNat > 4095 := by decide
theorem witness_FetchSeesTheStoreAtOnce : ∃ t, exec (.storeBlock 3#4) (start [] 0x200#16) = .next t ∧
    (3#4 : Nibble).toNat = (2#4 : Nibble).toNat + 1 ∧ (3#4 : Nibble).toNat ≤ (3#4 : Nibble).toNat ∧
    t.pc.toNat = (start [] 0x200#16).i.toNat + (2#4 : Nibble).toNat :=
  ⟨_, rfl, by decide, by decide, by decide +kernel⟩
theorem witness_StepRunsTheDecodedInstruction :
    ((State.reset.setPc 0xFFE#16).withFetchWord 16 0x6A55).pc.toNat + 1 < 4096 ∧
    (decodeBytes [((State.reset.setPc 0xFFE#16).withFetchWord 16 0x6A55).byteAt 0xFFE,
      ((State.reset.setPc 0xFFE#16).withFetchWord 16 0x6A55).byteAt 0xFFF] = .ok (.loadByte 0xA#4 0x55#8, [])) ∧
    (Instr.loadByte 0xA#4 0x55#8).wellFormed = true := by decide +kernel
theorem witness_FaultsComeInOrder : (State.reset.setPc 0xFFF#16).fetch = .error (.memoryOutOfBounds 0x1000) ∧
    (State.reset.fetch = .ok 0x0000#16 ∧ decodeWord 0x0000#16 = none) ∧
    ((State.reset.withFetchWord 16 0x00EE).fetch = .ok 0x00EE#16 ∧ decodeWord 0x00EE#16 = some .ret ∧
      faultOf (exec .ret (State.reset.withFetchWord 16 0x00EE)) = some (.stackUnderflow 0x200#16)) ∧
    (((start [(0#4, 60#8)] 0xFFE#16).withFetchWord 16 0xD013).fetch = .ok 0xD013#16 ∧
      decodeWord 0xD013#16 = some (.drawSprite 0#4 1#4 3#4) ∧ 1 ≤ (3#4 : Nibble).toNat ∧
      (start [(0#4, 60#8)] 0xFFE#16).i.toNat + (3#4 : Nibble).toNat - 1 ≥ 4096 ∧
      ((start [(0#4, 60#8)] 0xFFE#16).reg 0#4).toNat % 64 > 56) := by
  refine ⟨?_, ?_, ?_, ?_⟩ <;> first | exact rfl | decide +kernel
theorem witness_FaultsLeaveNoTrace : ∃ f, step State.reset = .fault f := ⟨_, rfl⟩
/-- Each of the six kinds is reached. -/
theorem witness_fault_kinds : stops (State.reset.setSp 15#4) 0x2300 (.stackOverflow 0x200#16) = true ∧
    stops State.reset 0x00EE (.stackUnderflow 0x200#16) = true ∧ stops State.reset 0xFFFF (.unknownOpcode 0xFFFF#16) = true ∧
    stops (start [(1#4, 16#8)] 0#16) 0xE19E (.keyIndexOutOfRange 16#8) = true ∧
    stops (start [(0#4, 57#8), (1#4, 31#8)] 0x300#16) 0xD011 (.displayOutOfBounds 57 31 1) = true ∧
    stops (start [] 0x1005#16) 0xF033 (.memoryOutOfBounds 0x1005) = true := by decide +kernel
theorem witness_AFaultIsAStandstill : (∃ f, step State.reset = .fault f ∧ f.isFatal = false) ∧
    (∃ f, step (State.reset.setPc 0xFFF#16) = .fault f ∧ f.isFatal = true) ∧ ∀ op ∈ [HostOp.step, .tickTimers, .setKey 3#4 true, .readStack], op.endsStandstill = false :=
  ⟨⟨_, rfl, rfl⟩, ⟨_, rfl, rfl⟩, by decide⟩
theorem witness_NoStepReadsTheSoundTimer : (∃ t, step (State.reset.withFetchWord 16 0xF318) = .next t) ∧
    (∃ f, step State.reset = .fault f) := ⟨⟨_, rfl⟩, _, rfl⟩
theorem witness_OnlyKeypadInstructionsReadKeys : readsKeys (.storeBcd 1#4) = false ∧
    (∃ t, exec (.storeBcd 1#4) (start [] 4093#16) = .next t) ∧ (∃ f, exec (.storeBcd 1#4) (start [] 4094#16) = .fault f) :=
  ⟨rfl, ⟨_, rfl⟩, _, rfl⟩
theorem witness_ResetStateIsAsTheTableSays : 79 < State.reset.fontImage.length ∧ State.reset.fontImage.length ≤ 80 := by decide
theorem witness_ResetOperationKeepsOnlyTheKeys :
    fontImageFits ({ State.reset with fontImage := List.replicate 512 1#8 } : State).fontImage = true := by decide +kernel
theorem witness_LoadImageCopiesOrRefusesWhole : 0xFFF + [1#8].length ≤ 4096 ∧ 0x1000 + [1#8].length > 4096 ∧
    4096 + ([] : List Byte).length ≤ 4096 := by decide
theorem witness_StepKeepsTheInvariant : State.reset.inv = true ∧
    ((start [(0#4, 0xFF#8)] 0#16).withFetchWord 16 0xBFFF).inv = true ∧
    (∃ t, step ((start [(0#4, 0xFF#8)] 0#16).withFetchWord 16 0xBFFF) = .next t ∧ t.pc = 0x10FE#16) :=
  ⟨by decide +kernel, by decide +kernel, _, rfl, by decide +kernel⟩
theorem witness_EveryScheduleKeepsTheInvariant : (start [(0#4, 0xFF#8)] 0#16).inv = true ∧
    ∃ t, (start [(0#4, 0xFF#8)] 0#16).runSchedule [.loadImage [0xBF#8, 0xFF#8] 0x200, .step, .setKey 3#4 true] = .ok t :=
  ⟨by decide +kernel, _, rfl⟩
/-- A self-jump [FL4] is final, and states whose step faults are there. -/
theorem witness_AFaultStateIsNeverFinal : (State.reset.withFetchWord 16 0x1200).isFinal = true ∧
    (∃ f, step State.reset = .fault f) ∧ State.reset.isFinal = false := ⟨by decide +kernel, ⟨_, rfl⟩, by decide +kernel⟩
/-- No state is left past a fatal fault, whatever follows [IX3]; an unknown opcode is not fatal, and is repeated [TM8]. -/
theorem test_no_claim_past_a_fatal_fault :
    (match (State.reset.setPc 0x10FE#16).runSchedule [.step, .reset] with
      | .ok _ => none
      | .error f => some f) = some (.memoryOutOfBounds 0x10FE) ∧
    (State.reset.setDt 5#8).outcomes [.step, .tickTimers, .step] =
      [.execError (.unknownOpcode 0#16), .ok, .execError (.unknownOpcode 0#16)] ∧
    (State.reset.setPc 0x10FE#16).outcomes [.step, .step] = [.execError (.memoryOutOfBounds 0x10FE)] := by decide +kernel
/-- The invariant refuses states that no run reaches: a bad `pc`, a written `stack[0]`, a cell outside memory. -/
theorem test_invariant_refuses : (State.reset.setPc 0x10FF#16).inv = false ∧
    (State.reset.setStackAt 0#4 1#16).inv = false ∧ (State.reset.setStackAt 3#4 0x1001#16).inv = false ∧
    ({ State.reset with mem := [(4096, 1#8)] } : State).inv = false := by decide +kernel

end Sys2Proof.Tests
end

/-! SUPPORT. When each instruction that can fault goes on, and to which state: the success halves of the `exec_…_cases`
lemmas as rewriting rules, beside the unconditional `exec_…` equations. -/

namespace Sys2Proof.Machine

variable {s t : State}

theorem exec_ret_next_iff :
    exec .ret s = .next t ↔ s.sp ≠ 0#4 ∧ (s.setPc (s.stackAt s.sp)).setSp (s.sp - 1#4) = t := by
  rcases exec_ret_cases s with ⟨h, e⟩ | ⟨h, e⟩ <;> simp [e, h]

theorem exec_call_next_iff {nnn : Addr12} : exec (.call nnn) s = .next t ↔ s.sp ≠ 15#4 ∧
    ((s.setSp (s.sp + 1#4)).setStackAt (s.sp + 1#4) (s.pc + 2#16)).setPc (nnn.setWidth 16) = t := by
  rcases exec_call_cases nnn s with ⟨h, e⟩ | ⟨h, e⟩ <;> simp [e, h]

/-- The sprite bytes `draw-sprite` reads from `I` (spec/45_draw.md R160). -/
def State.spriteBytes (s : State) (n : Nibble) : List Byte := (List.range n.toNat).map fun k => s.byteAt (s.i.toNat + k)

theorem exec_drawSprite_next_iff {x y n : Nibble} : exec (.drawSprite x y n) s = .next t ↔
    (spanFits s.i.toNat n.toNat = true ∧ spriteFits (originColumn (s.reg x)) (originRow (s.reg y)) n.toNat = true) ∧
    ((s.setDisp (blit (originColumn (s.reg x)) s.disp (originRow (s.reg y)) (s.spriteBytes n))).setReg vf
      (collisionFlag (collides s.disp (originColumn (s.reg x)) (originRow (s.reg y)) (s.spriteBytes n)))).advance = t := by
  rcases exec_drawSprite_cases x y n s with ⟨hm, e⟩ | ⟨hm, hd, e⟩ | ⟨hm, hd, e⟩
  · simp [e, hm]
  · simp [e, hd]
  · simp [e, hm, hd, drawRows, State.spriteBytes]

theorem skipOnKey_next_iff {x : Nibble} {wanted : Bool} : skipOnKey x wanted s = .next t ↔
    (s.reg x).toNat ≤ 15 ∧ s.skipIf (s.keyAt ((s.reg x).setWidth 4) == wanted) = t := by
  rcases skipOnKey_cases x wanted s with ⟨h, e⟩ | ⟨h, e⟩
  · simp [e, h]
  · simp only [e, h, true_and, Host.Outcome.next.injEq]

theorem storeAtI_next_iff {bs : List Byte} : storeAtI bs s = .next t ↔
    spanFits s.i.toNat bs.length = true ∧ (s.writeBytes s.i.toNat bs).advance = t := by
  rcases storeAtI_cases bs s with ⟨h, e⟩ | ⟨h, e⟩ <;> simp [e, h]

theorem exec_loadBlock_next_iff {x : Nibble} : exec (.loadBlock x) s = .next t ↔
    spanFits s.i.toNat (x.toNat + 1) = true ∧ (s.setRegBlock
      ((List.range (x.toNat + 1)).map fun k => s.byteAt (s.i.toNat + k))).advance = t := by
  rcases exec_loadBlock_cases x s with ⟨h, e⟩ | ⟨h, e⟩ <;> simp [e, h]

end Sys2Proof.Machine

/-! SUPPORT. What an instruction that goes on leaves unchanged: kinds of state, single registers, memory, the stack. -/

namespace Sys2Proof.Machine

variable {i : Instr} {s t : State}

/-- No instruction changes a kind of state outside the table `changes`: each next state is a composition of named updates,
and each update keeps what its own laws say. -/
theorem exec_keepsAllBut (h : exec i s = .next t) : keepsAllBut (changes i) s t := by
  rw [keepsAllBut_iff]
  cases i with
  | ret => obtain ⟨-, rfl⟩ := exec_ret_next_iff.mp h; simp [changes]
  | call nnn => obtain ⟨-, rfl⟩ := exec_call_next_iff.mp h; simp [changes]
  | drawSprite x y n => obtain ⟨-, rfl⟩ := exec_drawSprite_next_iff.mp h; simp [changes]
  | skipIfKeyPressed x | skipIfKeyNotPressed x => obtain ⟨-, rfl⟩ := skipOnKey_next_iff.mp h; simp [changes]
  | loadVxBlockingOnKey x =>
    rcases exec_loadVxBlockingOnKey_cases x s with ⟨k, -, e⟩ | ⟨-, e⟩
    · cases e.symm.trans h; simp [changes]
    · cases e.symm.trans h; simp
  | storeBcd x | storeBlock x => obtain ⟨-, rfl⟩ := storeAtI_next_iff.mp h; simp [changes]
  | loadBlock x => obtain ⟨-, rfl⟩ := exec_loadBlock_next_iff.mp h; simp [changes]
  | _ => cases h; simp [changes]

/-- A register that is neither an ordinary destination nor VF written as the flag is kept (spec/10_state.md R24). -/
theorem exec_reg_of_not_written {z : Nibble} (h : exec i s = .next t) (hz : writesOrdinary z i = false)
    (hvf : z = 15#4 → writesFlag i = false) : t.reg z = s.reg z := by
  cases i with
  | loadByte x _ | addByte x _ | loadReg x _ | orReg x _ | andReg x _ | xorReg x _ | randomAndMask x _
  | loadVxFromDelayTimer x =>
    have hzx : z ≠ x := by simpa [writesOrdinary] using hz
    cases h; simp [hzx]
  | addReg x _ | subReg x _ | shiftRight x _ | subnReg x _ | shiftLeft x _ =>
    have hzx : z ≠ x := by simpa [writesOrdinary] using hz
    have hz15 : z ≠ 15#4 := by simpa [writesFlag] using hvf
    cases h; simp [hzx, hz15]
  | drawSprite x y n =>
    have hz15 : z ≠ 15#4 := by simpa [writesFlag] using hvf
    obtain ⟨-, rfl⟩ := exec_drawSprite_next_iff.mp h; simp [hz15]
  | loadVxBlockingOnKey x =>
    have hzx : z ≠ x := by simpa [writesOrdinary] using hz
    rcases exec_loadVxBlockingOnKey_cases x s with ⟨k, -, e⟩ | ⟨-, e⟩
    · cases e.symm.trans h; simp [hzx]
    · cases e.symm.trans h; rfl
  | loadBlock x =>
    have hzx : x.toNat < z.toNat := by simpa [writesOrdinary] using hz
    have hout : ¬ z.toNat < x.toNat + 1 := by omega
    obtain ⟨-, rfl⟩ := exec_loadBlock_next_iff.mp h; simp [setRegBlock_reg, hout]
  | _ => exact exec_keepsAllBut h .registers (by simp [changes]) z

/-- Memory as a list of cells is kept by every instruction but the two stores. -/
theorem exec_mem_eq_or_store (h : exec i s = .next t) : t.mem = s.mem ∨
    ∃ bs, spanFits s.i.toNat bs.length = true ∧ t.mem = memSetBytes s.fontImage s.mem s.i.toNat bs := by
  cases i with
  | storeBcd x | storeBlock x => obtain ⟨hfit, rfl⟩ := storeAtI_next_iff.mp h; exact .inr ⟨_, hfit, rfl⟩
  | ret => obtain ⟨-, rfl⟩ := exec_ret_next_iff.mp h; exact .inl rfl
  | call nnn => obtain ⟨-, rfl⟩ := exec_call_next_iff.mp h; exact .inl rfl
  | drawSprite x y n => obtain ⟨-, rfl⟩ := exec_drawSprite_next_iff.mp h; exact .inl rfl
  | skipIfKeyPressed x | skipIfKeyNotPressed x => obtain ⟨-, rfl⟩ := skipOnKey_next_iff.mp h; exact .inl (by simp)
  | loadVxBlockingOnKey x =>
    rcases exec_loadVxBlockingOnKey_cases x s with ⟨k, -, e⟩ | ⟨-, e⟩ <;> cases e.symm.trans h <;> exact .inl rfl
  | loadBlock x => obtain ⟨-, rfl⟩ := exec_loadBlock_next_iff.mp h; exact .inl rfl
  | _ => cases h; exact .inl (by simp)

/-- The stack entries are kept, or a call has saved its return address in one entry, which is never entry 0
(spec/10_state.md R30). -/
theorem exec_stackAt_eq_or_saved (h : exec i s = .next t) : (∀ k, t.stackAt k = s.stackAt k) ∨
    ∃ k, k ≠ 0#4 ∧ ∀ j, t.stackAt j = if j = k then s.pc + 2#16 else s.stackAt j := by
  cases i with
  | ret => obtain ⟨-, rfl⟩ := exec_ret_next_iff.mp h; exact .inl (by simp)
  | call nnn =>
    obtain ⟨hsp, rfl⟩ := exec_call_next_iff.mp h
    exact .inr ⟨s.sp + 1#4, by bv_omega, by simp⟩
  | _ => exact .inl (exec_keepsAllBut h .callStack (by simp [changes])).2

end Sys2Proof.Machine

/-! SUPPORT. The value of VF after the six instructions that write it as a flag (spec/10_state.md R22). -/

namespace Sys2Proof.Machine

@[simp] theorem byteOfBool_toNat (b : Bool) : (byteOfBool b).toNat = if b then 1 else 0 := by cases b <;> rfl

/-- Some pixel was set before the sprite was drawn and is not set after: that is what collision means (spec/45_draw.md R164).
A row below the grid reads as empty, so it takes no part. -/
theorem collides_iff_pixel_erased (d : Vector PixelRow 32) (ox oy : Nat) (bs : List Byte) : collides d ox oy bs = true ↔
    ∃ r c, r < 32 ∧ c < 64 ∧ (rowAt d r).getLsbD c = true ∧ (rowAt (blit ox d oy bs) r).getLsbD c = false := by
  rw [collides_iff]
  constructor
  · rintro ⟨k, hk, hne⟩
    obtain ⟨c, hc, hbit⟩ : ∃ c, c < 64 ∧ (rowAt d (oy + k) &&& spriteRow ox (bs.getD k 0#8)).getLsbD c = true := by
      by_contra hall
      push Not at hall
      exact hne (BitVec.eq_of_getLsbD_eq fun c hc => by simpa using hall c hc)
    obtain ⟨hrow, hsprite⟩ := by simpa only [BitVec.getLsbD_and, Bool.and_eq_true] using hbit
    have hr : oy + k < 32 := by
      by_contra hout
      simp [rowAt, hout] at hrow
    refine ⟨oy + k, c, hr, hc, hrow, ?_⟩
    have hin : oy ≤ oy + k ∧ oy + k < oy + bs.length := by omega
    rw [rowAt_blit _ _ _ _ _ hr, if_pos hin, Nat.add_sub_cancel_left, BitVec.getLsbD_xor, hrow, hsprite]
    rfl
  · rintro ⟨r, c, hr, hc, hset, herased⟩
    rw [rowAt_blit _ _ _ _ _ hr] at herased
    split at herased
    · rename_i hin
      have hsprite : (spriteRow ox (bs.getD (r - oy) 0#8)).getLsbD c = true := by
        simpa only [BitVec.getLsbD_xor, hset, Bool.true_xor, Bool.not_eq_false'] using herased
      have hrow : oy + (r - oy) = r := by omega
      refine ⟨r - oy, by omega, fun hzero => ?_⟩
      have hbit := congrArg (BitVec.getLsbD · c) hzero
      simp only [hrow, BitVec.getLsbD_and, hset, hsprite] at hbit
      simp at hbit
    · simp [hset] at herased

open Sys2Proof.Claims in
/-- VF after a flag writer is the flag of its condition, and that flag is the one of the table of R22. -/
theorem exec_vfAsTable {i : Instr} {s t : State} (h : exec i s = .next t) : vfAsTable s t i := by
  cases i with
  | addReg x y => cases h; simp [vfAsTable, carryFlag]
  | subReg x y => cases h; simp [vfAsTable, noBorrowFlag]
  | shiftRight x y => cases h; simp [vfAsTable, lowBitFlag]
  | subnReg x y => cases h; simp [vfAsTable, greaterFlag]
  | shiftLeft x y => cases h; simp [vfAsTable, highBitFlag]
  | drawSprite x y n =>
    obtain ⟨-, rfl⟩ := exec_drawSprite_next_iff.mp h
    simpa [vfAsTable, collisionFlag, State.pixel] using
      collides_iff_pixel_erased s.disp (originColumn (s.reg x)) (originRow (s.reg y)) (s.spriteBytes n)
  | _ => trivial

/-- A flag writer leaves a condition in VF. -/
theorem exec_vf_eq_byteOfBool {i : Instr} {s t : State} (h : exec i s = .next t) (hi : writesFlag i = true) :
    ∃ b, t.reg 15#4 = byteOfBool b := by
  cases i with
  | addReg x y | subReg x y | shiftRight x y | subnReg x y | shiftLeft x y =>
    cases h; exact ⟨_, by simp; rfl⟩
  | drawSprite x y n => obtain ⟨-, rfl⟩ := exec_drawSprite_next_iff.mp h; exact ⟨_, by simp; rfl⟩
  | _ => simp [writesFlag] at hi

end Sys2Proof.Machine

/-! SUPPORT. `pc` after an instruction that goes on (spec/10_state.md R26), and the range it stays in (R27). -/

namespace Sys2Proof.Machine

open Sys2Proof.Claims

variable {i : Instr} {s t : State}

theorem pcPlus_of_pc_eq {k : Nat} (h : t.pc = s.pc + BitVec.ofNat 16 k) : pcPlus k s t := by
  simp [pcPlus, h]

/-- A skip moves `pc` as the table says for its condition. -/
theorem pcAsTable_skipIf {c : Bool} (h : skipCondition s i = some c) : pcAsTable s (s.skipIf c) i := by
  have hpc : pcPlus (if c then 4 else 2) s (s.skipIf c) := pcPlus_of_pc_eq (by cases c <;> rfl)
  cases i with
  | skipIfEqualByte _ _ | skipIfNotEqualByte _ _ | skipIfEqualReg _ _ | skipIfNotEqualReg _ _ | skipIfKeyPressed _
  | skipIfKeyNotPressed _ => cases c <;> simpa [pcAsTable, h] using hpc
  | _ => simp [skipCondition] at h

/-- The computed jump does not wrap: 12 bits and 8 bits add up inside 16 (spec/44_index_jump_random.md R151). -/
theorem toNat_nnn_add_byte (nnn : Addr12) (b : Byte) :
    (nnn.setWidth 16 + b.setWidth 16).toNat = nnn.toNat + b.toNat := by
  bv_omega

/-- `pc` after every instruction that goes on: a jump's target, the entry a return reads, a skip, or the next instruction. -/
theorem exec_pcAsTable (h : exec i s = .next t) : pcAsTable s t i := by
  cases i with
  | jump nnn => cases h; simp [pcAsTable]; omega
  | call nnn => obtain ⟨-, rfl⟩ := exec_call_next_iff.mp h; simp [pcAsTable]; omega
  | jumpPlusV0 nnn => cases h; exact toNat_nnn_add_byte nnn (s.reg 0#4)
  | ret => obtain ⟨-, rfl⟩ := exec_ret_next_iff.mp h; rfl
  | loadVxBlockingOnKey x =>
    rcases exec_loadVxBlockingOnKey_cases x s with ⟨k, hk, e⟩ | ⟨hk, e⟩
    · have hpressed : ¬ ∀ z, s.keyAt z = false := by simp [← lowestKey_none_iff, hk]
      cases e.symm.trans h
      simpa only [pcAsTable, if_neg hpressed] using pcPlus_of_pc_eq (k := 2) (by rfl)
    · cases e.symm.trans h
      simp [pcAsTable, (lowestKey_none_iff s).mp hk]
  | skipIfEqualByte x kk | skipIfNotEqualByte x kk =>
    cases h; exact pcAsTable_skipIf (by simp [skipCondition, BitVec.toNat_inj])
  | skipIfEqualReg x y | skipIfNotEqualReg x y =>
    cases h; exact pcAsTable_skipIf (by simp [skipCondition, BitVec.toNat_inj])
  | skipIfKeyPressed x | skipIfKeyNotPressed x =>
    obtain ⟨-, rfl⟩ := skipOnKey_next_iff.mp h
    exact pcAsTable_skipIf (by simp [skipCondition, BitVec.ofNat_toNat])
  | drawSprite x y n => obtain ⟨-, rfl⟩ := exec_drawSprite_next_iff.mp h; exact pcPlus_of_pc_eq (by rfl)
  | storeBcd x | storeBlock x => obtain ⟨-, rfl⟩ := storeAtI_next_iff.mp h; exact pcPlus_of_pc_eq (by rfl)
  | loadBlock x => obtain ⟨-, rfl⟩ := exec_loadBlock_next_iff.mp h; exact pcPlus_of_pc_eq (by rfl)
  | _ => cases h; exact pcPlus_of_pc_eq (by rfl)

/-- What the range of control flow says, entry by entry. -/
theorem flowInRange_iff (s : State) : s.flowInRange = true ↔
    s.pc.toNat ≤ 0x10FE ∧ (∀ k, (s.stackAt k).toNat ≤ 0x1000) ∧ s.stackAt 0#4 = 0#16 := by
  have hall : (∀ a ∈ s.stack.toList, a.toNat ≤ 0x1000) ↔ ∀ k, (s.stackAt k).toNat ≤ 0x1000 := by
    constructor
    · exact fun h k => h _ (by simp [State.stackAt])
    · intro h a ha
      obtain ⟨j, hj, rfl⟩ := List.getElem_of_mem ha
      have hj16 : j < 16 := by simpa using hj
      simpa [State.stackAt, Nat.mod_eq_of_lt hj16] using h (BitVec.ofNat 4 j)
  simp only [State.flowInRange, Bool.and_eq_true, decide_eq_true_eq, List.all_eq_true, hall, and_assoc]

/-- From a fetchable `pc`, a move by at most 4 stays in range. -/
theorem pcPlus_le {k : Nat} (hfetch : s.pc.toNat + 1 < 4096) (hk : k ≤ 4) (h : pcPlus k s t) : t.pc.toNat ≤ 0x10FE := by
  unfold pcPlus at h; omega

/-- `pc` as the table of R26 gives it is in the range of R27: the largest is the computed jump 0xFFF + 0xFF. -/
theorem pc_le_of_pcAsTable (hfetch : s.pc.toNat + 1 < 4096) (hstack : ∀ k, (s.stackAt k).toNat ≤ 0x1000)
    (h : pcAsTable s t i) : t.pc.toNat ≤ 0x10FE := by
  cases i with
  | jump nnn | call nnn =>
    have : t.pc.toNat = nnn.toNat := h
    omega
  | jumpPlusV0 nnn =>
    have : t.pc.toNat = nnn.toNat + (s.reg 0#4).toNat := h
    omega
  | ret =>
    have hpc : t.pc = s.stackAt s.sp := h
    have := hstack s.sp
    rw [hpc]; omega
  | loadVxBlockingOnKey x =>
    simp only [pcAsTable] at h
    split at h
    · rw [h]; omega
    · exact pcPlus_le hfetch (by omega) h
  | skipIfEqualByte _ _ | skipIfNotEqualByte _ _ | skipIfEqualReg _ _ | skipIfNotEqualReg _ _ | skipIfKeyPressed _
  | skipIfKeyNotPressed _ =>
    simp only [pcAsTable] at h
    split at h <;> exact pcPlus_le hfetch (by omega) h
  | _ => exact pcPlus_le (k := 2) hfetch (by omega) h

end Sys2Proof.Machine

/-! SUPPORT. Every step keeps the invariant, part by part. -/

namespace Sys2Proof.Machine

variable {i : Instr} {s t : State}

/-- The parts of the invariant. -/
theorem inv_iff (s : State) : s.inv = true ↔
    Memory.wf s.fontImage s.mem = true ∧ fontImageFits s.fontImage = true ∧ s.flowInRange = true := by
  simp [State.inv, and_assoc]

theorem exec_fontImage (h : exec i s = .next t) : t.fontImage = s.fontImage :=
  exec_keepsAllBut h .font (by cases i <;> simp [changes])

/-- The canonical form is kept, since a store writes inside memory or faults. -/
theorem exec_mem_wf (h : exec i s = .next t) (hwf : Memory.wf s.fontImage s.mem = true) :
    Memory.wf t.fontImage t.mem = true := by
  rw [exec_fontImage h]
  rcases exec_mem_eq_or_store h with hmem | ⟨bs, hfit, hmem⟩
  · rwa [hmem]
  · rw [hmem]
    rcases (spanFits_iff _ _).mp hfit with hnil | hle
    · rwa [List.length_eq_zero_iff.mp hnil]
    · exact memSetBytes_wf hle hwf

/-- Control flow stays in range: a return address is at most 2 past a fetchable `pc`. -/
theorem exec_flowInRange (h : exec i s = .next t) (hfetch : s.pc.toNat + 1 < 4096) (hflow : s.flowInRange = true) :
    t.flowInRange = true := by
  rw [flowInRange_iff] at hflow ⊢
  obtain ⟨-, hstack, hzero⟩ := hflow
  refine ⟨pc_le_of_pcAsTable hfetch hstack (exec_pcAsTable h), ?_⟩
  rcases exec_stackAt_eq_or_saved h with hkept | ⟨k, hk, hsaved⟩
  · simpa only [hkept] using ⟨hstack, hzero⟩
  · refine ⟨fun j => ?_, by rw [hsaved, if_neg hk.symm, hzero]⟩
    have hret : (s.pc + 2#16).toNat ≤ 0x1000 := by bv_omega
    rw [hsaved]
    split
    · exact hret
    · exact hstack j

/-- The fetch of a step that goes on bounds `pc`, and its instruction keeps each part of the invariant. -/
theorem step_inv (hinv : s.inv = true) (h : step s = .next t) : t.inv = true := by
  obtain ⟨op, i, hfetch, -, hexec⟩ := (step_next_iff s t).mp h
  obtain ⟨hwf, hfont, hflow⟩ := (inv_iff s).mp hinv
  exact (inv_iff t).mpr
    ⟨exec_mem_wf hexec hwf, by rwa [exec_fontImage hexec], exec_flowInRange hexec (fetch_ok_pc hfetch) hflow⟩

end Sys2Proof.Machine

/-! SUPPORT. No instruction reads ST: executing commutes with setting it (spec/10_state.md R31). -/

namespace Sys2Proof.Machine

/-- An outcome with a function applied to its next state, if it has one. -/
def onNext (g : State → State) : Result → Result
  | .next t => .next (g t)
  | .fault f => .fault f
  | .refused r => .refused r

@[simp] theorem onNext_next (g : State → State) (t : State) : onNext g (.next t) = .next (g t) := rfl
@[simp] theorem onNext_fault (g : State → State) (f : Fault) : onNext g (.fault f) = .fault f := rfl

theorem skipIf_setSt (s : State) (c : Bool) (b : Byte) : (s.setSt b).skipIf c = (s.skipIf c).setSt b := by
  cases c <;> rfl

theorem skipOnKey_setSt (x : Nibble) (wanted : Bool) (s : State) (b : Byte) :
    skipOnKey x wanted (s.setSt b) = onNext (fun t => t.setSt b) (skipOnKey x wanted s) := by
  simp only [skipOnKey, setSt_reg, setSt_keyAt, skipIf_setSt]
  split <;> rfl

theorem storeAtI_setSt (bs : List Byte) (s : State) (b : Byte) :
    storeAtI bs (s.setSt b) = onNext (fun t => t.setSt b) (storeAtI bs s) := by
  rcases storeAtI_cases bs s with ⟨hfit, e⟩ | ⟨hfit, e⟩
  · rw [e]; exact storeAtI_next_iff.mpr ⟨hfit, rfl⟩
  · simpa [e, hfit] using storeAtI_cases bs (s.setSt b)

theorem exec_ret_setSt (s : State) (b : Byte) :
    exec .ret (s.setSt b) = onNext (fun t => t.setSt b) (exec .ret s) := by
  rcases exec_ret_cases s with ⟨hsp, e⟩ | ⟨hsp, e⟩
  · simpa [e, hsp] using exec_ret_cases (s.setSt b)
  · rw [e]; exact exec_ret_next_iff.mpr ⟨hsp, rfl⟩

theorem exec_call_setSt (nnn : Addr12) (s : State) (b : Byte) :
    exec (.call nnn) (s.setSt b) = onNext (fun t => t.setSt b) (exec (.call nnn) s) := by
  rcases exec_call_cases nnn s with ⟨hsp, e⟩ | ⟨hsp, e⟩
  · simpa [e, hsp] using exec_call_cases nnn (s.setSt b)
  · rw [e]; exact exec_call_next_iff.mpr ⟨hsp, rfl⟩

theorem exec_drawSprite_setSt (x y n : Nibble) (s : State) (b : Byte) :
    exec (.drawSprite x y n) (s.setSt b) = onNext (fun t => t.setSt b) (exec (.drawSprite x y n) s) := by
  rcases exec_drawSprite_cases x y n s with ⟨hmem, e⟩ | ⟨hmem, hdisp, e⟩ | ⟨hmem, hdisp, e⟩
  · simpa [e, hmem] using exec_drawSprite_cases x y n (s.setSt b)
  · simpa [e, hmem, hdisp] using exec_drawSprite_cases x y n (s.setSt b)
  · rw [e]; exact exec_drawSprite_next_iff.mpr ⟨⟨hmem, hdisp⟩, rfl⟩

theorem exec_loadVxBlockingOnKey_setSt (x : Nibble) (s : State) (b : Byte) :
    exec (.loadVxBlockingOnKey x) (s.setSt b) = onNext (fun t => t.setSt b) (exec (.loadVxBlockingOnKey x) s) := by
  cases hk : s.lowestKey with
  | none => simp [exec, execLoadVxBlockingOnKey, hk]
  | some k => simp only [exec, execLoadVxBlockingOnKey, setSt_lowestKey, hk]; rfl

theorem exec_loadBlock_setSt (x : Nibble) (s : State) (b : Byte) :
    exec (.loadBlock x) (s.setSt b) = onNext (fun t => t.setSt b) (exec (.loadBlock x) s) := by
  rcases exec_loadBlock_cases x s with ⟨hfit, e⟩ | ⟨hfit, e⟩
  · rw [e]; exact exec_loadBlock_next_iff.mpr ⟨hfit, rfl⟩
  · simpa [e, hfit] using exec_loadBlock_cases x (s.setSt b)

/-- Each instruction does on a state with another ST what it does on the state, and leaves some ST: the one it writes itself
for the load of ST, the one it was given for every other. -/
theorem exec_setSt (i : Instr) (s : State) (b : Byte) :
    ∃ c, exec i (s.setSt b) = onNext (fun t => t.setSt c) (exec i s) := by
  cases i with
  | loadSoundTimer x => exact ⟨s.reg x, rfl⟩
  | ret => exact ⟨b, exec_ret_setSt s b⟩
  | call nnn => exact ⟨b, exec_call_setSt nnn s b⟩
  | drawSprite x y n => exact ⟨b, exec_drawSprite_setSt x y n s b⟩
  | skipIfKeyPressed x | skipIfKeyNotPressed x => exact ⟨b, skipOnKey_setSt x _ s b⟩
  | loadVxBlockingOnKey x => exact ⟨b, exec_loadVxBlockingOnKey_setSt x s b⟩
  | storeBcd x | storeBlock x => exact ⟨b, storeAtI_setSt _ s b⟩
  | loadBlock x => exact ⟨b, exec_loadBlock_setSt x s b⟩
  | skipIfEqualByte x _ | skipIfNotEqualByte x _ | skipIfEqualReg x _ | skipIfNotEqualReg x _ =>
    exact ⟨b, congrArg Host.Outcome.next (skipIf_setSt s _ b)⟩
  | _ => exact ⟨b, rfl⟩

/-- A step from a state with another ST: fetch and decode see the same word. -/
theorem step_setSt (s : State) (b : Byte) : ∃ c, step (s.setSt b) = onNext (fun t => t.setSt c) (step s) := by
  simp only [step, setSt_fetch]
  split
  · exact ⟨b, rfl⟩
  · split
    · exact ⟨b, rfl⟩
    · exact exec_setSt _ s b

end Sys2Proof.Machine

/-! SUPPORT. What memory reads as after reset. -/

namespace Sys2Proof.Machine

/-- After reset memory lists no cell, so every address reads as FONT_IMAGE from address 0, padded with zeros
(spec/10_state.md R39): the default image ends inside the reserved region. -/
theorem reset_byteAt (a : Nat) : State.reset.byteAt a = State.reset.fontImage.getD a 0#8 := by
  have hlen : State.reset.fontImage.length ≤ Config.reservedSize := by decide
  show memDefault State.reset.fontImage a = _
  unfold memDefault
  split
  · rfl
  · exact (List.getD_eq_default _ _ (by omega)).symm

end Sys2Proof.Machine

/-! The statements of the state: reset, frames, registers, VF, `pc`, ST and the invariant. -/

namespace Sys2Proof.Machine

/-- Settles O58: memory, FONT_IMAGE, `pc` and the stack, each by its own lemma. -/
theorem stepKeepsTheInvariant : Obligations.StepKeepsTheInvariant :=
  fun _ _ hinv h => step_inv hinv h

/-- Settles O31: the frame of every instruction. -/
theorem everyInstructionKeepsWhatItDoesNotWrite : Obligations.EveryInstructionKeepsWhatItDoesNotWrite :=
  fun _ _ _ h => exec_keepsAllBut h

/-- Settles O32: the flag is the one of the table, it is a condition, and VF is a register like any other elsewhere. -/
theorem onlySixInstructionsWriteVfAsAFlag : Obligations.OnlySixInstructionsWriteVfAsAFlag := by
  intro i s t h
  refine ⟨exec_vfAsTable h, fun hi => ?_, fun hi hz => exec_reg_of_not_written h hz fun _ => hi⟩
  obtain ⟨b, hb⟩ := exec_vf_eq_byteOfBool h hi
  cases b <;> simp [hb]

/-- Settles O33: the register frame of every instruction. -/
theorem registersAreWrittenAsTheAccessTableSays : Obligations.RegistersAreWrittenAsTheAccessTableSays :=
  fun _ _ _ _ h hz hvf => exec_reg_of_not_written h hz hvf

/-- Settles O34: the table by instruction, and a fault leaves the whole state. -/
theorem pcAdvancesAsTheTableSays : Obligations.PcAdvancesAsTheTableSays :=
  ⟨fun _ _ _ h => exec_pcAsTable h, fun _ _ h => by rw [stepOp_of_fault h]⟩

/-- Settles O50: stepping commutes with setting ST. -/
theorem noStepReadsTheSoundTimer : Obligations.NoStepReadsTheSoundTimer := by
  intro s b
  obtain ⟨c, hc⟩ := step_setSt s b
  exact ⟨fun t h => ⟨c, by rw [hc, h]; rfl⟩, fun f h => by rw [hc, h]; rfl⟩

/-- Settles O52: every register file is a constant vector, and memory lists no cell. -/
theorem resetStateIsAsTheTableSays : Obligations.ResetStateIsAsTheTableSays := by
  refine ⟨?_, rfl, rfl, rfl, ?_, rfl, rfl, ?_, ?_, ?_, ?_⟩
  · simp [State.reset, State.reg]
  · simp [State.reset, State.stackAt]
  · intro r c hr _; simp [State.reset, State.pixel, rowAt, hr]
  · simp [State.reset, State.keyAt]
  · exact fun a h => by rw [reset_byteAt, List.getD_eq_getElem _ _ h]
  · exact fun a h => by rw [reset_byteAt, List.getD_eq_default _ _ h]

/-- Settles O57: memory lists no cell, and the other parts are checked on the one state. -/
theorem resetMeetsTheInvariant : Obligations.ResetMeetsTheInvariant :=
  (inv_iff _).mpr ⟨reset_mem_wf, by decide, by decide⟩

end Sys2Proof.Machine

/-! SUPPORT. The memory primitives inside and outside memory, and what a block store leaves where it stored. -/

namespace Sys2Proof.Machine

variable {s t : State} {a : Nat} {x z : Nibble}

theorem memRead_of_lt (s : State) (ha : a < Config.memSize) : s.memRead a = .ok (s.byteAt a) := if_pos ha

theorem memRead_of_ge (s : State) (ha : Config.memSize ≤ a) : s.memRead a = .error (.memoryOutOfBounds a) :=
  if_neg (Nat.not_lt.mpr ha)

theorem memWrite_of_lt (s : State) (v : Byte) (ha : a < Config.memSize) : s.memWrite a v = .ok (s.writeBytes a [v]) :=
  if_pos ha

theorem memWrite_of_ge (s : State) (v : Byte) (ha : Config.memSize ≤ a) :
    s.memWrite a v = .error (.memoryOutOfBounds a) :=
  if_neg (Nat.not_lt.mpr ha)

theorem writeBytes_singleton_byteAt (s : State) (a c : Nat) (v : Byte) :
    (s.writeBytes a [v]).byteAt c = if c = a then v else s.byteAt c := by
  rw [writeBytes_byteAt]
  by_cases h : c = a
  · simp [h]
  · rw [if_neg h, if_neg (by rw [List.length_singleton]; omega)]

/-- A write changes nothing but memory: every other kind of state is a field the write keeps. -/
theorem writeBytes_keepsAllBut_memory (s : State) (a : Nat) (bs : List Byte) :
    keepsAllBut [.memory] s (s.writeBytes a bs) := by
  rw [keepsAllBut_iff]; simp

/-- `store-block` goes on exactly where the address of its last byte exists. -/
theorem exec_storeBlock_next_iff : exec (.storeBlock x) s = .next t ↔
    s.i.toNat + x.toNat < Config.memSize ∧ (s.writeBytes s.i.toNat (s.regBlock x)).advance = t := by
  have hfit : spanFits s.i.toNat (s.regBlock x).length = true ↔ s.i.toNat + x.toNat < Config.memSize := by
    rw [spanFits_iff, regBlock_length]; omega
  rw [exec_storeBlock, storeAtI_next_iff, hfit]

/-- After `store-block Vx` the byte at `I + z` is `V[z]`, for each `z` up to `x` (spec/48_index_memory.md R193). -/
theorem exec_storeBlock_byteAt (h : exec (.storeBlock x) s = .next t) (hz : z.toNat ≤ x.toNat) :
    t.byteAt (s.i.toNat + z.toNat) = s.reg z := by
  obtain ⟨-, rfl⟩ := exec_storeBlock_next_iff.mp h
  have hin : s.i.toNat ≤ s.i.toNat + z.toNat ∧ s.i.toNat + z.toNat < s.i.toNat + (s.regBlock x).length := by
    rw [regBlock_length]; omega
  rw [advance_byteAt, writeBytes_byteAt, if_pos hin, Nat.add_sub_cancel_left, regBlock_getD s x z hz]

end Sys2Proof.Machine

/-! The statements of memory: the primitives, the fetch, and a fetch from a block just stored. -/

namespace Sys2Proof.Machine

/-- Settles O43: both bytes of the word lie in the stored block, and so inside memory. -/
theorem fetchSeesTheStoreAtOnce : Obligations.FetchSeesTheStoreAtOnce := by
  intro x z z' s t h hsucc hz' hpc
  obtain ⟨hlast, -⟩ := exec_storeBlock_next_iff.mp h
  have hpc' : t.pc.toNat + 1 = s.i.toNat + z'.toNat := by omega
  have hhigh : t.byteAt t.pc.toNat = s.reg z := by rw [hpc]; exact exec_storeBlock_byteAt h (by omega)
  have hlow : t.byteAt (t.pc.toNat + 1) = s.reg z' := by rw [hpc']; exact exec_storeBlock_byteAt h hz'
  rw [fetch_eq, if_pos (by omega), hhigh, hlow]

/-- Settles O41: the bounds check answers the fault, and inside memory a write is read back at its own address alone. -/
theorem memoryPrimitivesCheckTheAddress : Obligations.MemoryPrimitivesCheckTheAddress := by
  intro s a v
  refine ⟨fun ha => ?_, fun ha => ⟨memRead_of_ge s ha, memWrite_of_ge s v ha⟩⟩
  have hlt : a < Config.memSize := Nat.lt_succ_of_le ha
  refine ⟨memRead_of_lt s hlt, s.writeBytes a [v], memWrite_of_lt s v hlt, ?_, ?_, rfl,
    writeBytes_keepsAllBut_memory s a [v]⟩
  · rw [writeBytes_singleton_byteAt, if_pos rfl]
  · exact fun b hb => by rw [writeBytes_singleton_byteAt, if_neg hb]

/-- Settles O42: the three answers of a fetch, one for each range of `pc`. -/
theorem fetchIsBigEndianAndChecked : Obligations.FetchIsBigEndianAndChecked := by
  intro s
  refine ⟨fun hin => ?_, fun hlast => ?_, fun hout => ?_⟩
  · refine ⟨_, ?_, wordOfBytes_toNat _ _⟩
    rw [fetch_eq]; exact if_pos (Nat.lt_succ_of_le hin)
  · rw [fetch_eq, hlast]; rfl
  · have h0 : ¬ s.pc.toNat < Config.memSize := Nat.not_lt.mpr hout
    rw [fetch_eq, if_neg (by omega), if_neg h0]

end Sys2Proof.Machine

/-! SUPPORT. The decoder and the encoder are inverse to each other: each sub-decoder gives back the word it was handed, and
each format of word is decoded by its class (spec/30_encoding.md R72, R75). -/

namespace Sys2Proof

variable {w : Word} {i : Instr} {c x y n : Nibble} {kk : Byte} {nnn : Addr12}

theorem wordNNN_of_class (hc : (opClass w).toNat = c.toNat) : wordNNN c (opNNN w) = w := by
  rw [← BitVec.eq_of_toNat_eq hc, wordNNN_fields]

theorem wordXKK_of_class (hc : (opClass w).toNat = c.toNat) : wordXKK c (opX w) (opKK w) = w := by
  rw [← BitVec.eq_of_toNat_eq hc, wordXKK_fields]

theorem wordXYN_of_class (hc : (opClass w).toNat = c.toNat) (hn : opN w = n) :
    wordXYN c (opX w) (opY w) n = w := by
  rw [← BitVec.eq_of_toNat_eq hc, ← hn, wordXYN_fields]

theorem encode_of_decodeClass0 (h : decodeClass0 nnn = some i) : encode i = wordNNN 0x0#4 nnn := by
  unfold decodeClass0 at h
  split at h <;> cases h
  next hn => rw [BitVec.eq_of_toNat_eq (y := 0x0E0#12) hn]; rfl
  next hn => rw [BitVec.eq_of_toNat_eq (y := 0x0EE#12) hn]; rfl

theorem encode_of_decodeClass8 (h : decodeClass8 x y n = some i) : encode i = wordXYN 0x8#4 x y n := by
  unfold decodeClass8 at h
  split at h <;> cases h
  all_goals exact congrArg (wordXYN 0x8#4 x y) (BitVec.eq_of_toNat_eq (Eq.symm ‹_›))

theorem encode_of_decodeClassE (h : decodeClassE x kk = some i) : encode i = wordXKK 0xE#4 x kk := by
  unfold decodeClassE at h
  split at h <;> cases h
  all_goals exact congrArg (wordXKK 0xE#4 x) (BitVec.eq_of_toNat_eq (Eq.symm ‹_›))

theorem encode_of_decodeClassF (h : decodeClassF x kk = some i) : encode i = wordXKK 0xF#4 x kk := by
  unfold decodeClassF at h
  split at h <;> cases h
  all_goals exact congrArg (wordXKK 0xF#4 x) (BitVec.eq_of_toNat_eq (Eq.symm ‹_›))

/-- Class by class: the instruction holds every field of the word, and the sub-decoders answer for their classes. -/
theorem encode_of_decodeWord (h : decodeWord w = some i) : encode i = w := by
  unfold decodeWord at h
  split at h
  case h_1 hc => rw [encode_of_decodeClass0 h, wordNNN_of_class hc]
  case h_2 hc | h_3 hc | h_11 hc | h_12 hc => cases h; exact wordNNN_of_class hc
  case h_4 hc | h_5 hc | h_7 hc | h_8 hc | h_13 hc => cases h; exact wordXKK_of_class hc
  case h_6 hc | h_10 hc =>
    split at h <;> cases h
    next hn => exact wordXYN_of_class hc hn
  case h_9 hc => rw [encode_of_decodeClass8 h, wordXYN_of_class hc rfl]
  case h_14 hc => cases h; exact wordXYN_of_class hc rfl
  case h_15 hc => rw [encode_of_decodeClassE h, wordXKK_of_class hc]
  case h_16 hc => rw [encode_of_decodeClassF h, wordXKK_of_class hc]
  case h_17 => cases h

/-- Format by format: the fields of the instruction's word are its operands and its sub-function. -/
theorem decodeWord_encode (i : Instr) : decodeWord (encode i) = some i := by
  cases i with
  | clearScreen | ret => rfl
  | jump nnn | call nnn | loadI nnn | jumpPlusV0 nnn => simp [encode, decodeWord]
  | skipIfEqualByte x kk | skipIfNotEqualByte x kk | loadByte x kk | addByte x kk | randomAndMask x kk =>
    simp [encode, decodeWord]
  | skipIfEqualReg x y | skipIfNotEqualReg x y | drawSprite x y n => simp [encode, decodeWord]
  | loadReg x y | orReg x y | andReg x y | xorReg x y | addReg x y | subReg x y | shiftRight x y | subnReg x y
  | shiftLeft x y => simp [encode, decodeWord, decodeClass8]
  | skipIfKeyPressed x | skipIfKeyNotPressed x => simp [encode, decodeWord, decodeClassE]
  | loadVxFromDelayTimer x | loadVxBlockingOnKey x | loadDelayTimer x | loadSoundTimer x | addToI x | loadFontAddress x
  | storeBcd x | storeBlock x | loadBlock x => simp [encode, decodeWord, decodeClassF]

theorem decodeWord_eq_some_iff : decodeWord w = some i ↔ encode i = w :=
  ⟨encode_of_decodeWord, fun h => h ▸ decodeWord_encode i⟩

end Sys2Proof

/-! SUPPORT. Which words the decoder rejects: those of a class with sub-functions whose sub-function is not in the table
(spec/30_encoding.md R77). -/

namespace Sys2Proof

variable {w : Word} {x y n : Nibble} {kk : Byte} {nnn : Addr12}

theorem decodeClass0_eq_none_iff : decodeClass0 nnn = none ↔ nnn ≠ 0x0E0#12 ∧ nnn ≠ 0x0EE#12 := by
  simp only [ne_eq, ← BitVec.toNat_inj]
  unfold decodeClass0
  split <;> simp_all

theorem decodeClass8_eq_none_iff :
    decodeClass8 x y n = none ↔ n ∈ [0x8#4, 0x9#4, 0xA#4, 0xB#4, 0xC#4, 0xD#4, 0xF#4] := by
  simp only [List.mem_cons, List.not_mem_nil, or_false, ← BitVec.toNat_inj]
  unfold decodeClass8
  split
  case h_10 => simp only [BitVec.reduceToNat, imp_false, true_iff] at *; omega
  all_goals simp [*]

theorem decodeClassE_eq_none_iff : decodeClassE x kk = none ↔ kk ∉ [0x9E#8, 0xA1#8] := by
  simp only [List.mem_cons, List.not_mem_nil, or_false, not_or, ← BitVec.toNat_inj]
  unfold decodeClassE
  split <;> simp_all

theorem decodeClassF_eq_none_iff : decodeClassF x kk = none ↔
    kk ∉ [0x07#8, 0x0A#8, 0x15#8, 0x18#8, 0x1E#8, 0x29#8, 0x33#8, 0x55#8, 0x65#8] := by
  simp only [List.mem_cons, List.not_mem_nil, or_false, not_or, ← BitVec.toNat_inj]
  unfold decodeClassF
  split <;> simp_all

/-- Two words of one class are equal where their low 12 bits are. -/
theorem eq_iff_opNNN_eq {v : Word} (hc : opClass w = opClass v) : w = v ↔ opNNN w = opNNN v := by
  refine ⟨fun h => h ▸ rfl, fun h => ?_⟩
  rw [← wordNNN_fields w, hc, h, wordNNN_fields]

/-- Class by class: the classes with sub-functions reject as their sub-decoders do, and the others reject nothing. -/
theorem decodeWord_eq_none_iff : decodeWord w = none ↔
    (opClass w = 0x0#4 ∧ w ≠ 0x00E0#16 ∧ w ≠ 0x00EE#16) ∨
    (opClass w = 0x5#4 ∧ opN w ≠ 0x0#4) ∨
    (opClass w = 0x8#4 ∧ opN w ∈ [0x8#4, 0x9#4, 0xA#4, 0xB#4, 0xC#4, 0xD#4, 0xF#4]) ∨
    (opClass w = 0x9#4 ∧ opN w ≠ 0x0#4) ∨
    (opClass w = 0xE#4 ∧ opKK w ∉ [0x9E#8, 0xA1#8]) ∨
    (opClass w = 0xF#4 ∧ opKK w ∉ [0x07#8, 0x0A#8, 0x15#8, 0x18#8, 0x1E#8, 0x29#8, 0x33#8, 0x55#8, 0x65#8]) := by
  have hclass0 (hc : (opClass w).toNat = 0) :
      (w ≠ 0x00E0#16 ∧ w ≠ 0x00EE#16) ↔ opNNN w ≠ 0x0E0#12 ∧ opNNN w ≠ 0x0EE#12 := by
    have hc' : opClass w = 0x0#4 := BitVec.eq_of_toNat_eq hc
    rw [ne_eq, ne_eq, eq_iff_opNNN_eq (v := 0x00E0#16) hc', eq_iff_opNNN_eq (v := 0x00EE#16) hc']; rfl
  simp only [← BitVec.toNat_inj (x := opClass w)]
  unfold decodeWord
  split
  case h_1 hc => simp [hc, hclass0 hc, decodeClass0_eq_none_iff]
  case h_9 hc => simp [hc, decodeClass8_eq_none_iff]
  case h_15 hc => simp [hc, decodeClassE_eq_none_iff]
  case h_16 hc => simp [hc, decodeClassF_eq_none_iff]
  case h_17 => exfalso; simp only [imp_false] at *; omega
  all_goals rename_i hc; simp [hc]

end Sys2Proof

/-! SUPPORT. The rows of the opcode map: the mask of a row is told by its class, and so a word is known by its bits under the
mask of its own class (spec/30_encoding.md R74, R75). -/

namespace Sys2Proof

variable {w : Word} {r : OpcodeRow}

/-- The mask of the rows of a class in the opcode map: the bits that hold the class and, where the class has sub-functions,
the sub-function (spec/30_encoding.md R75). -/
def rowMask (c : Nibble) : Word :=
  match c.toNat with
  | 0x0 => 0xFFFF#16
  | 0x5 | 0x8 | 0x9 => 0xF00F#16
  | 0xE | 0xF => 0xF0FF#16
  | _ => 0xF000#16

/-- Every row has the mask of its class. -/
theorem mask_eq_rowMask : ∀ r ∈ opcodeTable, r.mask = rowMask (opClass r.pattern) := by decide

/-- Every row's pattern is the word of an instruction. -/
theorem decodeWord_pattern_ne_none : ∀ r ∈ opcodeTable, decodeWord r.pattern ≠ none := by decide

theorem opcodeTable_patterns_nodup : (opcodeTable.map OpcodeRow.pattern).Nodup := by decide

/-- A mask keeps the fields it covers. -/
theorem extractLsb'_and_of_allOnes {m : Word} {k l : Nat} (h : m.extractLsb' k l = BitVec.allOnes l) :
    (w &&& m).extractLsb' k l = w.extractLsb' k l := by
  rw [BitVec.extractLsb'_and, h, BitVec.and_allOnes]

@[simp] theorem opClass_and_rowMask (w : Word) (c : Nibble) : opClass (w &&& rowMask c) = opClass w := by
  have hmask : opClass (rowMask c) = BitVec.allOnes 4 := by revert c; decide
  exact extractLsb'_and_of_allOnes hmask

/-- The pattern of a selected row is what the word holds under the mask of its class. -/
theorem pattern_of_selects (hr : r ∈ opcodeTable) (h : r.selects w = true) :
    r.pattern = w &&& rowMask (opClass w) := by
  have hand : w &&& rowMask (opClass r.pattern) = r.pattern := by
    simpa [OpcodeRow.selects, mask_eq_rowMask r hr] using h
  have hclass : opClass w = opClass r.pattern := by rw [← opClass_and_rowMask, hand]
  rw [hclass, hand]

/-- Whether a word decodes is told by its bits under the mask of its class. -/
theorem decodeWord_and_rowMask_eq_none_iff :
    decodeWord (w &&& rowMask (opClass w)) = none ↔ decodeWord w = none := by
  have hN {c : Nibble} (h : opN (rowMask c) = BitVec.allOnes 4) : opN (w &&& rowMask c) = opN w :=
    extractLsb'_and_of_allOnes h
  have hKK {c : Nibble} (h : opKK (rowMask c) = BitVec.allOnes 8) : opKK (w &&& rowMask c) = opKK w :=
    extractLsb'_and_of_allOnes h
  rw [decodeWord_eq_none_iff, decodeWord_eq_none_iff, opClass_and_rowMask]
  refine or_congr (and_congr_right fun hc => ?_) <| or_congr (and_congr_right fun hc => ?_) <|
    or_congr (and_congr_right fun hc => ?_) <| or_congr (and_congr_right fun hc => ?_) <|
    or_congr (and_congr_right fun hc => ?_) (and_congr_right fun hc => ?_) <;> rw [hc]
  · rw [show w &&& rowMask 0x0#4 = w from BitVec.and_allOnes]
  iterate 3 · rw [hN (by decide)]
  iterate 2 · rw [hKK (by decide)]

theorem decodeWord_ne_none_of_selects (hr : r ∈ opcodeTable) (h : r.selects w = true) : decodeWord w ≠ none := by
  rw [ne_eq, ← decodeWord_and_rowMask_eq_none_iff, ← pattern_of_selects hr h]
  exact decodeWord_pattern_ne_none r hr

/-- Every instruction has its row. -/
theorem encodesInRow : ∀ i : Instr, Laws.EncodesInRow.Statement i
  | .clearScreen => Laws.EncodesInRow.clearScreen
  | .ret => Laws.EncodesInRow.ret
  | .jump nnn => Laws.EncodesInRow.jump nnn
  | .call nnn => Laws.EncodesInRow.call nnn
  | .skipIfEqualByte x kk => Laws.EncodesInRow.skipIfEqualByte x kk
  | .skipIfNotEqualByte x kk => Laws.EncodesInRow.skipIfNotEqualByte x kk
  | .skipIfEqualReg x y => Laws.EncodesInRow.skipIfEqualReg x y
  | .loadByte x kk => Laws.EncodesInRow.loadByte x kk
  | .addByte x kk => Laws.EncodesInRow.addByte x kk
  | .loadReg x y => Laws.EncodesInRow.loadReg x y
  | .orReg x y => Laws.EncodesInRow.orReg x y
  | .andReg x y => Laws.EncodesInRow.andReg x y
  | .xorReg x y => Laws.EncodesInRow.xorReg x y
  | .addReg x y => Laws.EncodesInRow.addReg x y
  | .subReg x y => Laws.EncodesInRow.subReg x y
  | .shiftRight x y => Laws.EncodesInRow.shiftRight x y
  | .subnReg x y => Laws.EncodesInRow.subnReg x y
  | .shiftLeft x y => Laws.EncodesInRow.shiftLeft x y
  | .skipIfNotEqualReg x y => Laws.EncodesInRow.skipIfNotEqualReg x y
  | .loadI nnn => Laws.EncodesInRow.loadI nnn
  | .jumpPlusV0 nnn => Laws.EncodesInRow.jumpPlusV0 nnn
  | .randomAndMask x kk => Laws.EncodesInRow.randomAndMask x kk
  | .drawSprite x y n => Laws.EncodesInRow.drawSprite x y n
  | .skipIfKeyPressed x => Laws.EncodesInRow.skipIfKeyPressed x
  | .skipIfKeyNotPressed x => Laws.EncodesInRow.skipIfKeyNotPressed x
  | .loadVxFromDelayTimer x => Laws.EncodesInRow.loadVxFromDelayTimer x
  | .loadVxBlockingOnKey x => Laws.EncodesInRow.loadVxBlockingOnKey x
  | .loadDelayTimer x => Laws.EncodesInRow.loadDelayTimer x
  | .loadSoundTimer x => Laws.EncodesInRow.loadSoundTimer x
  | .addToI x => Laws.EncodesInRow.addToI x
  | .loadFontAddress x => Laws.EncodesInRow.loadFontAddress x
  | .storeBcd x => Laws.EncodesInRow.storeBcd x
  | .storeBlock x => Laws.EncodesInRow.storeBlock x
  | .loadBlock x => Laws.EncodesInRow.loadBlock x

end Sys2Proof

/-! SUPPORT. No instruction, and so no step, is refused. -/

namespace Sys2Proof.Machine

theorem exec_ne_refused (i : Instr) (s : State) (r : Refusal) : exec i s ≠ .refused r := by
  cases i with
  | ret => rcases exec_ret_cases s with ⟨-, e⟩ | ⟨-, e⟩ <;> simp [e]
  | call nnn => rcases exec_call_cases nnn s with ⟨-, e⟩ | ⟨-, e⟩ <;> simp [e]
  | drawSprite x y n => rcases exec_drawSprite_cases x y n s with ⟨-, e⟩ | ⟨-, -, e⟩ | ⟨-, -, e⟩ <;> simp [e]
  | skipIfKeyPressed x | skipIfKeyNotPressed x =>
    rcases skipOnKey_cases x _ s with ⟨-, e⟩ | ⟨-, e⟩ <;> exact fun h => nomatch e.symm.trans h
  | loadVxBlockingOnKey x =>
    rcases exec_loadVxBlockingOnKey_cases x s with ⟨k, -, e⟩ | ⟨-, e⟩ <;> simp [e]
  | storeBcd x | storeBlock x =>
    rcases storeAtI_cases _ s with ⟨-, e⟩ | ⟨-, e⟩ <;> exact fun h => nomatch e.symm.trans h
  | loadBlock x => rcases exec_loadBlock_cases x s with ⟨-, e⟩ | ⟨-, e⟩ <;> simp [e]
  | _ => simp

/-- A step is refused only by its instruction. -/
theorem step_refused_iff (s : State) (r : Refusal) : step s = .refused r ↔
    ∃ op i, s.fetch = .ok op ∧ decodeWord op = some i ∧ exec i s = .refused r := by
  unfold step raise
  cases hf : s.fetch with
  | error f => simp
  | ok op => cases hd : decodeWord op <;> simp [hd]

end Sys2Proof.Machine

/-! The statements of the encoding. -/

namespace Sys2Proof.Machine

/-- Settles O36: the fields of the word of an instruction are its operands, format by format. -/
theorem decodeUndoesEncode : Obligations.DecodeUndoesEncode := decodeWord_encode

/-- Settles O37: the fields of a word are the operands of the instruction it decodes to, class by class. -/
theorem encodeUndoesDecode : Obligations.EncodeUndoesDecode := fun _ _ => encode_of_decodeWord

/-- Settles O35: a step is refused only by its instruction, and each instruction goes on or faults. -/
theorem noStepIsRefused : Obligations.NoStepIsRefused := by
  intro s r h
  obtain ⟨_, i, -, -, hexec⟩ := (step_refused_iff s r).mp h
  exact exec_ne_refused i s r hexec

/-- Settles O38: a selected row's pattern is the word under the mask of its class, so two selected rows have one pattern;
a decoded instruction's word selects the row of its name; and a word selects a row only where it decodes as the pattern
does. -/
theorem decodingFollowsTheMasks : Obligations.DecodingFollowsTheMasks := by
  refine ⟨fun w a b ha hb hwa hwb => ?_, fun w i h => ?_, fun w => ⟨fun h r hr => ?_, fun h => ?_⟩⟩
  · have hpattern : a.pattern = b.pattern := (pattern_of_selects ha hwa).trans (pattern_of_selects hb hwb).symm
    exact List.inj_on_of_nodup_map opcodeTable_patterns_nodup ha hb hpattern
  · obtain ⟨r, hr, hname, hsel⟩ := encodesInRow i
    exact ⟨r, hr, encode_of_decodeWord h ▸ hsel, hname⟩
  · exact Bool.eq_false_iff.mpr fun hsel => decodeWord_ne_none_of_selects hr hsel h
  · refine Option.eq_none_iff_forall_ne_some.mpr fun i hi => ?_
    obtain ⟨r, hr, -, hsel⟩ := encodesInRow i
    rw [encode_of_decodeWord hi, h r hr] at hsel
    cases hsel

/-- Settles O39: the rejected words, class by class. -/
theorem unknownWordsAreThoseListed : Obligations.UnknownWordsAreThoseListed := fun _ => decodeWord_eq_none_iff

/-- Settles O40: each word is the word of its instruction. -/
theorem printedWordsDecode : Obligations.PrintedWordsDecode := by
  refine ⟨?_, ?_, ?_, ?_, ?_, ?_, ?_, ?_, ?_, ?_⟩ <;> exact decodeWord_eq_some_iff.mpr rfl

end Sys2Proof.Machine

/-! SUPPORT. What clear-screen shows, and what `call` leaves for the `return` that answers it. -/

namespace Sys2Proof.Machine

variable {nnn : Addr12} {s t : State}

theorem pixel_setDisp_replicate_zero (s : State) (r c : Nat) :
    (s.setDisp (Vector.replicate 32 0#64)).pixel r c = false := by
  by_cases hr : r < 32 <;> simp [State.pixel, rowAt, hr]

/-- `call` takes the depth one up, without wrapping (spec/40_screen_and_flow.md R103, D5). -/
theorem exec_call_sp_toNat (h : exec (.call nnn) s = .next t) : t.sp.toNat = s.sp.toNat + 1 := by
  obtain ⟨hsp, rfl⟩ := exec_call_next_iff.mp h
  simp only [setPc_sp, setStackAt_sp, setSp_sp]
  bv_omega

/-- The new `SP` indexes the saved return address (R103). -/
theorem exec_call_saved (h : exec (.call nnn) s = .next t) : t.stackAt t.sp = s.pc + 2#16 := by
  obtain ⟨-, rfl⟩ := exec_call_next_iff.mp h
  simp

theorem exec_call_stackAt_of_ne {k : Nibble} (h : exec (.call nnn) s = .next t) (hk : k ≠ t.sp) :
    t.stackAt k = s.stackAt k := by
  obtain ⟨-, rfl⟩ := exec_call_next_iff.mp h
  exact (setStackAt_stackAt _ _ _ _).trans (if_neg hk)

end Sys2Proof.Machine

/-! The statements of screen and flow. -/

namespace Sys2Proof.Machine

/-- Settles O5: after the call `SP` is not 0, so the return does not fault, and it reads the address the call saved. -/
theorem returnUndoesCall : Obligations.ReturnUndoesCall := by
  intro nnn s t u hcall hsp hentry
  have hdepth : u.sp.toNat = s.sp.toNat + 1 := hsp ▸ exec_call_sp_toNat hcall
  have hsaved : u.stackAt u.sp = s.pc + 2#16 := hentry.trans (exec_call_saved hcall)
  refine ⟨_, exec_ret_next_iff.mpr ⟨?_, rfl⟩, pcPlus_of_pc_eq hsaved, ?_⟩
  · bv_omega
  · rw [setSp_sp]; bv_omega

/-- Settles O1: every row of the new display is 0. -/
theorem clearScreenClearsEveryPixel : Obligations.ClearScreenClearsEveryPixel :=
  ⟨decodeWord_encode .clearScreen, fun s => ⟨_, exec_clearScreen s, fun r c _ _ => pixel_setDisp_replicate_zero s r c,
    pcPlus_of_pc_eq rfl, exec_keepsAllBut (exec_clearScreen s)⟩⟩

/-- Settles O2: the two cases of `return`, and the frame of every instruction. -/
theorem returnGoesToTheSavedAddress : Obligations.ReturnGoesToTheSavedAddress := by
  refine ⟨decodeWord_encode .ret, fun s => ?_⟩
  rcases exec_ret_cases s with ⟨hsp, hfault⟩ | ⟨hsp, hnext⟩
  · exact ⟨fun h => absurd hsp h, fun _ => hfault⟩
  · refine ⟨fun _ => ⟨_, hnext, rfl, ?_, fun _ => rfl, exec_keepsAllBut hnext⟩, fun h => absurd h hsp⟩
    rw [setSp_sp]; bv_omega

/-- Settles O3: `pc` by the table of R26, and the frame of every instruction. -/
theorem jumpSetsPcToTheAddress : Obligations.JumpSetsPcToTheAddress := fun nnn s =>
  ⟨decodeWord_encode (.jump nnn), _, exec_jump nnn s, exec_pcAsTable (exec_jump nnn s),
    exec_keepsAllBut (exec_jump nnn s)⟩

/-- Settles O4: the two cases of `call`; the next state by what a call leaves on the stack, the table of R26 and the frame
of every instruction. -/
theorem callSavesTheReturnAddress : Obligations.CallSavesTheReturnAddress := by
  intro nnn s
  refine ⟨decodeWord_encode (.call nnn), ?_⟩
  rcases exec_call_cases nnn s with ⟨hsp, hfault⟩ | ⟨hsp, hnext⟩
  · exact ⟨fun h => absurd hsp h, fun _ => hfault⟩
  · refine ⟨fun _ => ⟨_, hnext, exec_call_sp_toNat hnext, ?_, fun _ hk => exec_call_stackAt_of_ne hnext hk,
      exec_pcAsTable hnext, exec_keepsAllBut hnext⟩, fun h => absurd h hsp⟩
    rw [exec_call_saved hnext, BitVec.toNat_add]; rfl

end Sys2Proof.Machine

/-! SUPPORT. What a skip does whatever its condition, and the words beside the register skips. -/

namespace Sys2Proof.Machine

open Sys2Proof.Claims

theorem skipIf_keepsAllBut (s : State) (c : Bool) : keepsAllBut [] s (s.skipIf c) :=
  (keepsAllBut_iff ..).mpr (by simp)

theorem skipIf_pcPlus (s : State) (c : Bool) : pcPlus (if c then 4 else 2) s (s.skipIf c) :=
  pcPlus_of_pc_eq (by cases c <;> rfl)

/-- An instruction that skips on `c` goes on and changes `pc` alone: by 4 under any `P` that makes `c` hold, by 2 under
any `Q` that makes it fail (spec/10_state.md R26). -/
theorem skips_of_exec_eq_skipIf {i : Instr} {s : State} {c : Bool} {P Q : Prop} (h : exec i s = .next (s.skipIf c))
    (hP : P → c = true) (hQ : Q → c = false) :
    ∃ t, exec i s = .next t ∧ keepsAllBut [] s t ∧ (P → pcPlus 4 s t) ∧ (Q → pcPlus 2 s t) := by
  refine ⟨_, h, skipIf_keepsAllBut s c, fun hp => ?_, fun hq => ?_⟩
  · simpa [hP hp] using skipIf_pcPlus s c
  · simpa [hQ hq] using skipIf_pcPlus s c

/-- Classes 5 and 9 have the one sub-function 0 (spec/30_encoding.md R77). -/
theorem decodeWord_wordXYN_eq_none {c x y n : Nibble} (hc : c = 0x5#4 ∨ c = 0x9#4) (hn : n ≠ 0x0#4) :
    decodeWord (wordXYN c x y n) = none := by
  rw [decodeWord_eq_none_iff, opClass_wordXYN, opN_wordXYN]
  rcases hc with hc | hc
  · exact .inr (.inl ⟨hc, hn⟩)
  · exact .inr (.inr (.inr (.inl ⟨hc, hn⟩)))

end Sys2Proof.Machine

/-! The statements of the skips. -/

namespace Sys2Proof.Machine

/-- Settles O6: each is a skip on its comparison, and two bytes are equal where their unsigned values are. -/
theorem byteSkipsCompareWithTheImmediate : Obligations.ByteSkipsCompareWithTheImmediate := by
  intro x kk s
  simp only [ne_eq, BitVec.toNat_inj]
  refine ⟨decodeWord_encode (.skipIfEqualByte x kk), decodeWord_encode (.skipIfNotEqualByte x kk), ?_, ?_⟩
  · exact skips_of_exec_eq_skipIf (exec_skipIfEqualByte x kk s) decide_eq_true decide_eq_false
  · exact skips_of_exec_eq_skipIf (exec_skipIfNotEqualByte x kk s) decide_eq_true
      fun heq => decide_eq_false (not_not_intro heq)

/-- Settles O7: each is a skip on its comparison, and no other sub-function of classes 5 and 9 decodes. -/
theorem registerSkipsCompareTwoRegisters : Obligations.RegisterSkipsCompareTwoRegisters := by
  intro x y s
  simp only [ne_eq, BitVec.toNat_inj]
  refine ⟨decodeWord_encode (.skipIfEqualReg x y), decodeWord_encode (.skipIfNotEqualReg x y),
    fun n hn => ⟨decodeWord_wordXYN_eq_none (.inl rfl) hn, decodeWord_wordXYN_eq_none (.inr rfl) hn⟩, ?_, ?_⟩
  · exact skips_of_exec_eq_skipIf (exec_skipIfEqualReg x y s) decide_eq_true decide_eq_false
  · exact skips_of_exec_eq_skipIf (exec_skipIfNotEqualReg x y s) decide_eq_true
      fun heq => decide_eq_false (not_not_intro heq)

end Sys2Proof.Machine

/-! SUPPORT. The frame as a relation between states, and what an instruction that writes one register does. -/

namespace Sys2Proof.Machine

variable {changed : List Part} {p : Part} {i : Instr} {s t : State} {x : Nibble} {kk b : Byte}

theorem kept_symm (h : kept s t p) : kept t s p := by
  cases p with
  | callStack => exact ⟨h.1.symm, fun k => (h.2 k).symm⟩
  | registers | memory | keys => exact fun k => (h k).symm
  | display => exact fun r c hr hc => (h r c hr hc).symm
  | index | delayTimer | soundTimer | draws | font => exact Eq.symm h

theorem keepsAllBut_symm (h : keepsAllBut changed s t) : keepsAllBut changed t s := fun q hq => kept_symm (h q hq)

/-- A kind of state that reads alike after all need not be named. -/
theorem keepsAllBut_of_cons (h : keepsAllBut (p :: changed) s t) (hp : kept s t p) : keepsAllBut changed s t := by
  intro q hq
  by_cases hqp : q = p
  · exact hqp ▸ hp
  · exact h q (List.not_mem_cons_of_ne_of_not_mem hqp hq)

/-- An instruction that writes `b` to V[x] and advances goes on, and changes that register and `pc` alone. -/
theorem writesOneReg_of_exec_eq_setReg_advance (h : exec i s = .next (s.setReg x b).advance) :
    ∃ t, exec i s = .next t ∧ t.reg x = b ∧ regsKeptBut [x] s t ∧ pcPlus 2 s t ∧ keepsAllBut [.registers] s t := by
  refine ⟨_, h, ?_, fun z hz => ?_, pcPlus_of_pc_eq rfl, ?_⟩
  · rw [advance_reg, setReg_reg, if_pos rfl]
  · rw [advance_reg, setReg_reg, if_neg (List.ne_of_not_mem_cons hz)]
  · rw [keepsAllBut_iff]; simp

theorem exec_addByte_reg (h : exec (.addByte x kk) s = .next t) (z : Nibble) :
    t.reg z = if z = x then s.reg x + kk else s.reg z := by
  cases h; rw [advance_reg, setReg_reg]

end Sys2Proof.Machine

/-! The statements of the immediates. -/

namespace Sys2Proof.Machine

/-- Settles O9: addition modulo 256 is associative, and what each add-byte keeps, both ways keep. -/
theorem twoAddBytesAreOne : Obligations.TwoAddBytesAreOne := by
  intro x a b s t u w ht hu hw
  have hregs : ∀ z, u.reg z = w.reg z := by
    intro z
    rw [exec_addByte_reg hu, exec_addByte_reg ht, exec_addByte_reg ht, exec_addByte_reg hw]
    by_cases hz : z = x
    · rw [if_pos hz, if_pos rfl, if_pos hz, BitVec.add_assoc]
    · rw [if_neg hz, if_neg hz, if_neg hz]
  have hframe : keepsAllBut [.registers] w u := keepsAllBut_trans (keepsAllBut_symm (exec_keepsAllBut hw))
    (keepsAllBut_trans (exec_keepsAllBut ht) (exec_keepsAllBut hu))
  exact ⟨hregs, keepsAllBut_of_cons hframe hregs⟩

/-- Settles O8: each writes one register, the sum of two bytes wrapping at 256. -/
theorem immediatesLoadAndAddModulo256 : Obligations.ImmediatesLoadAndAddModulo256 := by
  intro x kk s
  refine ⟨decodeWord_encode (.loadByte x kk), decodeWord_encode (.addByte x kk), ?_, ?_⟩
  · obtain ⟨t, h, hval, hframe⟩ := writesOneReg_of_exec_eq_setReg_advance (exec_loadByte x kk s)
    exact ⟨t, h, congrArg BitVec.toNat hval, hframe⟩
  · obtain ⟨t, h, hval, hframe⟩ := writesOneReg_of_exec_eq_setReg_advance (exec_addByte x kk s)
    exact ⟨t, h, by rw [hval, BitVec.toNat_add], hframe⟩

end Sys2Proof.Machine

/-! SUPPORT. What an instruction that writes a result and then VF does, and the values of results and flags as numbers. -/

namespace Sys2Proof.Machine

/-- The borrow of a byte subtraction adds 256 (spec/43_alu.md R135, R137). -/
theorem toNat_byte_sub (a b : Byte) :
    (a - b).toNat = if a.toNat ≥ b.toNat then a.toNat - b.toNat else a.toNat + 256 - b.toNat := by
  rw [BitVec.toNat_sub]; split <;> omega

theorem toNat_byte_shiftRight_one (a : Byte) : (a >>> 1).toNat = a.toNat / 2 := by
  rw [BitVec.toNat_ushiftRight, Nat.shiftRight_eq_div_pow, Nat.pow_one]

theorem toNat_byte_shiftLeft_one (a : Byte) : (a <<< 1).toNat = 2 * a.toNat % 256 := by
  rw [BitVec.toNat_shiftLeft, Nat.shiftLeft_eq, Nat.mul_comm]

theorem carryFlag_toNat (a b : Byte) : (carryFlag a b).toNat = if a.toNat + b.toNat ≥ 256 then 1 else 0 := by
  simp [carryFlag]

theorem noBorrowFlag_toNat (a b : Byte) : (noBorrowFlag a b).toNat = if a.toNat ≥ b.toNat then 1 else 0 := by
  simp [noBorrowFlag]

theorem greaterFlag_toNat (a b : Byte) : (greaterFlag a b).toNat = if b.toNat > a.toNat then 1 else 0 := by
  simp [greaterFlag]

/-- A bit of a byte as a flag is that binary digit of its value. -/
theorem byteOfBool_getLsbD_toNat (a : Byte) (k : Nat) : (byteOfBool (a.getLsbD k)).toNat = a.toNat / 2 ^ k % 2 := by
  rw [byteOfBool_toNat, BitVec.getLsbD, ← Nat.toNat_testBit, Bool.toNat, Bool.cond_eq_ite]

theorem lowBitFlag_toNat (a : Byte) : (lowBitFlag a).toNat = a.toNat % 2 := by
  rw [lowBitFlag, byteOfBool_getLsbD_toNat, Nat.pow_zero, Nat.div_one]

/-- Above bit 7 a byte has no digit, so the remainder by 2 falls away. -/
theorem highBitFlag_toNat (a : Byte) : (highBitFlag a).toNat = a.toNat / 128 := by
  rw [highBitFlag, byteOfBool_getLsbD_toNat]; omega

variable {i : Instr} {s : State} {x : Nibble} {b f : Byte}

/-- An instruction that writes `b` to V[x], then `f` to VF, and advances goes on: `b` survives where `x` is not 15, `f`
always does, and nothing else but `pc` changes (spec/43_alu.md R140). -/
theorem writesRegAndFlag_of_exec_eq_setRegFlag_advance {result flag : Nat}
    (h : exec i s = .next (s.setRegFlag x b f).advance) (hb : b.toNat = result) (hf : f.toNat = flag) :
    ∃ t, exec i s = .next t ∧ (x ≠ 15#4 → (t.reg x).toNat = result) ∧ (t.reg 15#4).toNat = flag ∧
      regsKeptBut [x, 15#4] s t ∧ pcPlus 2 s t ∧ keepsAllBut [.registers] s t := by
  refine ⟨_, h, fun hx => ?_, ?_, fun z hz => ?_, pcPlus_of_pc_eq rfl, ?_⟩
  · rw [advance_reg, setRegFlag_reg, if_neg hx, if_pos rfl, hb]
  · rw [advance_reg, setRegFlag_reg, if_pos rfl, hf]
  · obtain ⟨hzx, hz15⟩ : z ≠ x ∧ z ≠ 15#4 := by simpa using hz
    rw [advance_reg, setRegFlag_reg, if_neg hz15, if_neg hzx]
  · rw [keepsAllBut_iff]; simp

end Sys2Proof.Machine

/-! The statements of the register-to-register ALU instructions. -/

namespace Sys2Proof.Machine

/-- Settles O10: each writes one register, and the logic is that of each bit. -/
theorem copyAndLogicWriteNoFlag : Obligations.CopyAndLogicWriteNoFlag := by
  intro x y s
  refine ⟨decodeWord_encode (.loadReg x y), decodeWord_encode (.orReg x y), decodeWord_encode (.andReg x y),
    decodeWord_encode (.xorReg x y), writesOneReg_of_exec_eq_setReg_advance (exec_loadReg x y s), ?_, ?_, ?_⟩
  · obtain ⟨t, h, hval, hframe⟩ := writesOneReg_of_exec_eq_setReg_advance (exec_orReg x y s)
    exact ⟨t, h, fun k _ => by rw [hval, BitVec.getLsbD_or], hframe⟩
  · obtain ⟨t, h, hval, hframe⟩ := writesOneReg_of_exec_eq_setReg_advance (exec_andReg x y s)
    exact ⟨t, h, fun k _ => by rw [hval, BitVec.getLsbD_and], hframe⟩
  · obtain ⟨t, h, hval, hframe⟩ := writesOneReg_of_exec_eq_setReg_advance (exec_xorReg x y s)
    exact ⟨t, h, fun k _ => by rw [hval, BitVec.getLsbD_xor], hframe⟩

/-- Settles O11: the wrapping sum, then the carry. -/
theorem addRegSetsTheCarry : Obligations.AddRegSetsTheCarry := fun x y s =>
  ⟨decodeWord_encode (.addReg x y), writesRegAndFlag_of_exec_eq_setRegFlag_advance (exec_addReg x y s)
    (BitVec.toNat_add ..) (carryFlag_toNat ..)⟩

/-- Settles O12: the wrapping difference, then the inverse of its borrow. -/
theorem subRegSetsNoBorrow : Obligations.SubRegSetsNoBorrow := fun x y s =>
  ⟨decodeWord_encode (.subReg x y), writesRegAndFlag_of_exec_eq_setRegFlag_advance (exec_subReg x y s)
    (toNat_byte_sub ..) (noBorrowFlag_toNat ..)⟩

/-- Settles O13: the wrapping reversed difference, then the strict comparison. -/
theorem subnRegSetsStrictlyGreater : Obligations.SubnRegSetsStrictlyGreater := fun x y s =>
  ⟨decodeWord_encode (.subnReg x y), writesRegAndFlag_of_exec_eq_setRegFlag_advance (exec_subnReg x y s)
    (toNat_byte_sub ..) (greaterFlag_toNat ..)⟩

/-- Settles O14: the shifted V[x], then the bit that left it. -/
theorem shiftsCatchTheBitShiftedOut : Obligations.ShiftsCatchTheBitShiftedOut := fun x y s =>
  ⟨decodeWord_encode (.shiftRight x y), decodeWord_encode (.shiftLeft x y),
    writesRegAndFlag_of_exec_eq_setRegFlag_advance (exec_shiftRight x y s) (toNat_byte_shiftRight_one _)
      (lowBitFlag_toNat _),
    writesRegAndFlag_of_exec_eq_setRegFlag_advance (exec_shiftLeft x y s) (toNat_byte_shiftLeft_one _)
      (highBitFlag_toNat _)⟩

/-- Settles O15: the flag clauses of O11 to O14 at `x = y = 15`, where both operands are the old VF. -/
theorem flagSurvivesWhenVfIsBothOperands : Obligations.FlagSurvivesWhenVfIsBothOperands := by
  intro s
  obtain ⟨-, t, hadd, -, hcarry, -⟩ := addRegSetsTheCarry 15#4 15#4 s
  obtain ⟨-, u, hsub, -, hnoBorrow, -⟩ := subRegSetsNoBorrow 15#4 15#4 s
  obtain ⟨-, w, hsubn, -, hgreater, -⟩ := subnRegSetsStrictlyGreater 15#4 15#4 s
  obtain ⟨-, -, ⟨p, hright, -, hlow, -⟩, q, hleft, -, hhigh, -⟩ := shiftsCatchTheBitShiftedOut 15#4 15#4 s
  have hdouble : (s.reg 15#4).toNat + (s.reg 15#4).toNat ≥ 256 ↔ (s.reg 15#4).toNat ≥ 128 := by omega
  refine ⟨⟨t, hadd, ?_⟩, ⟨u, hsub, ?_⟩, ⟨w, hsubn, ?_⟩, ⟨p, hright, hlow⟩, ⟨q, hleft, hhigh⟩⟩
  · rw [hcarry]; simp only [hdouble]
  · rw [hnoBorrow, if_pos le_rfl]
  · rw [hgreater, if_neg (lt_irrefl _)]

end Sys2Proof.Machine

/-! SUPPORT. What `random-and-mask` writes. -/

namespace Sys2Proof.Machine

variable {s t : State} {x : Nibble} {kk : Byte}

/-- V[x] takes the drawn byte masked (spec/44_index_jump_random.md R152). -/
theorem exec_randomAndMask_reg (h : exec (.randomAndMask x kk) s = .next t) : t.reg x = s.draw8 &&& kk := by
  cases h; rw [advance_reg, consumeDraw_reg, setReg_reg, if_pos rfl]

theorem exec_randomAndMask_draws (h : exec (.randomAndMask x kk) s = .next t) : t.draws = s.draws + 1 := by
  cases h; rw [advance_draws, consumeDraw_draws, setReg_draws]

theorem exec_randomAndMask_regsKeptBut (h : exec (.randomAndMask x kk) s = .next t) : regsKeptBut [x] s t := fun _ hz =>
  exec_reg_of_not_written h (decide_eq_false (List.ne_of_not_mem_cons hz)) fun _ => rfl

end Sys2Proof.Machine

/-! The statements of the address register, the computed jump and the random byte. -/

namespace Sys2Proof.Machine

/-- Settles O16: zero extension keeps the value; `pc` by the table of R26, and the frame of every instruction. -/
theorem loadISetsTheAddressRegister : Obligations.LoadISetsTheAddressRegister := by
  intro nnn s
  have hnext := exec_loadI nnn s
  have hvalue : (nnn.setWidth 16).toNat = nnn.toNat := BitVec.toNat_setWidth_of_le (by decide)
  exact ⟨decodeWord_encode (.loadI nnn), _, hnext, hvalue, exec_pcAsTable hnext, exec_keepsAllBut hnext⟩

/-- Settles O17: `pc` by the table of R26, whose sum does not wrap, and the frame of every instruction. -/
theorem jumpPlusV0AddsV0Unreduced : Obligations.JumpPlusV0AddsV0Unreduced := by
  intro nnn s
  have hnext := exec_jumpPlusV0 nnn s
  exact ⟨decodeWord_encode (.jumpPlusV0 nnn), _, hnext, exec_pcAsTable hnext, exec_keepsAllBut hnext⟩

/-- Settles O18: V[x] is the drawn byte masked, and what is said of its value holds of every masked byte. -/
theorem randomAndMaskSetsNoBitOutsideTheMask : Obligations.RandomAndMaskSetsNoBitOutsideTheMask := by
  intro x kk s
  obtain ⟨t, hnext⟩ : ∃ t, exec (.randomAndMask x kk) s = .next t := ⟨_, exec_randomAndMask x kk s⟩
  have hmasked : t.reg x = s.draw8 &&& kk := exec_randomAndMask_reg hnext
  refine ⟨decodeWord_encode (.randomAndMask x kk), t, hnext, hmasked, ?_, ?_, fun hzero => ?_, fun hones => ?_,
    exec_randomAndMask_draws hnext, exec_randomAndMask_regsKeptBut hnext, exec_pcAsTable hnext, exec_keepsAllBut hnext⟩
  · rw [hmasked, BitVec.and_assoc, BitVec.and_not_self]
    exact BitVec.and_zero
  · rw [hmasked, BitVec.toNat_and]
    exact Nat.and_le_right
  · rw [hmasked, hzero, BitVec.and_zero]
  · rw [hmasked, hones]
    exact BitVec.and_allOnes

end Sys2Proof.Machine

/-! SUPPORT. What `draw-sprite` does to one pixel, and when its checks fail, in the words of the rules. -/

namespace Sys2Proof.Machine

variable {s t : State} {x y n : Nibble}

/-- A sprite leaves memory when its last byte does (spec/45_draw.md R162). -/
theorem spanFits_eq_false_iff (a len : Nat) : spanFits a len = false ↔ 1 ≤ len ∧ a + len - 1 ≥ 4096 := by
  rw [← Bool.not_eq_true, spanFits_iff, Config.memSize]; omega

theorem spriteFits_iff (ox oy n : Nat) : spriteFits ox oy n = true ↔ n = 0 ∨ (ox + 7 ≤ 63 ∧ oy + n ≤ 32) := by
  simp [spriteFits]

/-- A sprite leaves the grid when its last column or its last row does (spec/45_draw.md R161). -/
theorem spriteFits_eq_false_iff (ox oy n : Nat) :
    spriteFits ox oy n = false ↔ 1 ≤ n ∧ (ox + 7 > 63 ∨ oy + n - 1 > 31) := by
  rw [← Bool.not_eq_true, spriteFits_iff]; omega

/-- A pixel of the blitted display is the old one XOR the sprite bit that falls on it (spec/45_draw.md R160). -/
theorem blit_spriteBytes_getLsbD (s : State) (n : Nibble) (ox oy : Nat) {r c : Nat} (hr : r < 32) (hc : c < 64) :
    (rowAt (blit ox s.disp oy (s.spriteBytes n)) r).getLsbD c = (s.pixel r c ^^ s.spriteBit ox oy n.toNat r c) := by
  have hlen : (s.spriteBytes n).length = n.toNat := by simp [State.spriteBytes]
  rw [rowAt_blit _ _ _ _ _ hr, hlen]
  by_cases hrow : oy ≤ r ∧ r < oy + n.toNat
  · have hbyte : (s.spriteBytes n).getD (r - oy) 0#8 = s.byteAt (s.i.toNat + (r - oy)) := by
      have hk : r - oy < n.toNat := by omega
      simp [State.spriteBytes, hk]
    rw [if_pos hrow, BitVec.getLsbD_xor, spriteRow_getLsbD _ _ _ hc, hbyte]
    simp [State.pixel, State.spriteBit, hrow]
  · have hoff : ¬ (oy ≤ r ∧ r < oy + n.toNat ∧ ox ≤ c ∧ c < ox + 8) := by omega
    rw [if_neg hrow, State.spriteBit, if_neg hoff, Bool.xor_false, State.pixel]

theorem exec_drawSprite_pixel (h : exec (.drawSprite x y n) s = .next t) {r c : Nat} (hr : r < 32) (hc : c < 64) :
    t.pixel r c =
      (s.pixel r c ^^ s.spriteBit (originColumn (s.reg x)) (originRow (s.reg y)) n.toNat r c) := by
  obtain ⟨-, rfl⟩ := exec_drawSprite_next_iff.mp h
  exact blit_spriteBytes_getLsbD s n _ _ hr hc

/-- The sprite is read from memory at `I` alone. -/
theorem spriteBit_congr (hi : t.i = s.i) (hmem : ∀ a, t.byteAt a = s.byteAt a) (ox oy n r c : Nat) :
    t.spriteBit ox oy n r c = s.spriteBit ox oy n r c := by
  simp only [State.spriteBit, hi, hmem]


end Sys2Proof.Machine

/-! SUPPORT. The pixel loops of spec/45_draw.md R160. The column loop draws from left to right, so after some columns
it has XORed on the part of the sprite row left of a column; the row loop draws one more sprite byte a pass. -/

namespace Sys2Proof.Machine

open Sys2Proof.Claims

/-- A display row XORed with another. -/
def State.xorRow (s : State) (r : Nat) (row : PixelRow) : State :=
  s.setDisp (s.disp.setIfInBounds r (rowAt s.disp r ^^^ row))

/-- The part of a row that lies left of a column. -/
def columnsBelow (j : Nat) (row : PixelRow) : PixelRow := (row.setWidth j).setWidth 64

theorem xorRow_zero (s : State) (r : Nat) : s.xorRow r 0#64 = s := by
  have hself : s.disp.setIfInBounds r (rowAt s.disp r) = s.disp := by
    ext k hk
    rw [Vector.getElem_setIfInBounds hk]
    split <;> simp_all [rowAt]
  rw [State.xorRow, BitVec.xor_zero, hself]; rfl

theorem xorRow_xorRow (s : State) {r : Nat} (hr : r < 32) (p q : PixelRow) :
    (s.xorRow r p).xorRow r q = s.xorRow r (p ^^^ q) := by
  simp [State.xorRow, State.setDisp, rowAt_setIfInBounds _ _ _ _ hr, BitVec.xor_assoc]

theorem columnsBelow_getLsbD (j : Nat) (row : PixelRow) {c : Nat} (hc : c < 64) :
    (columnsBelow j row).getLsbD c = (decide (c < j) && row.getLsbD c) := by
  simp [columnsBelow, hc]

/-- One column more is one pixel more. -/
theorem columnsBelow_succ (j : Nat) (row : PixelRow) :
    columnsBelow (j + 1) row = columnsBelow j row ^^^ (row &&& BitVec.twoPow 64 j) := by
  refine BitVec.eq_of_getLsbD_eq fun c hc => ?_
  simp only [BitVec.getLsbD_xor, BitVec.getLsbD_and, BitVec.getLsbD_twoPow, columnsBelow_getLsbD _ _ hc]
  rcases Nat.lt_trichotomy c j with hlt | heq | hgt
  · simp [hlt, hlt.ne', Nat.lt_succ_of_lt hlt]
  · subst heq; simp [hc]
  · have hout : ¬ c < j + 1 := by omega
    simp [hout, hgt.not_gt, hgt.ne]

theorem ne_zero_iff_exists_getLsbD (row : PixelRow) : row ≠ 0#64 ↔ ∃ c, c < 64 ∧ row.getLsbD c = true := by
  simp only [ne_eq, BitVec.eq_of_getLsbD_eq_iff, BitVec.getLsbD_zero, not_forall, exists_prop, Bool.not_eq_false]

/-- What meets a row below column `j + 1` meets it below column `j`, or in column `j`. -/
theorem and_columnsBelow_succ_ne_zero (old row : PixelRow) {j : Nat} (hj : j < 64) :
    decide (old &&& columnsBelow (j + 1) row ≠ 0#64) =
      (decide (old &&& columnsBelow j row ≠ 0#64) || (row.getLsbD j && old.getLsbD j)) := by
  have hmeets (m : Nat) : old &&& columnsBelow m row ≠ 0#64 ↔
      ∃ c, c < m ∧ c < 64 ∧ (row.getLsbD c && old.getLsbD c) = true := by
    rw [ne_zero_iff_exists_getLsbD]
    refine exists_congr fun c => ?_
    rw [BitVec.getLsbD_and, and_left_comm, and_congr_right_iff]
    intro hc
    rw [columnsBelow_getLsbD _ _ hc, Bool.and_left_comm, Bool.and_eq_true, decide_eq_true_eq, Bool.and_comm]
  rw [Bool.eq_iff_iff, Bool.or_eq_true, decide_eq_true_eq, decide_eq_true_eq, hmeets, hmeets, Nat.exists_lt_succ_right,
    and_iff_right hj]

/-- Drawing a pixel XORs on the one pixel of a row, set or not. -/
theorem setPixel_xor (s : State) (r : Nat) {c : Nat} (hc : c < 64) (row : PixelRow) :
    setPixel s r c (s.pixel r c ^^ row.getLsbD c) = s.xorRow r (row &&& BitVec.twoPow 64 c) := by
  have hrow (old : PixelRow) : (if (old.getLsbD c ^^ row.getLsbD c) = true then old ||| 1#64 <<< c
      else old &&& ~~~(1#64 <<< c)) = old ^^^ (row &&& BitVec.twoPow 64 c) := by
    rw [BitVec.getLsbD_eq_getElem hc, BitVec.getLsbD_eq_getElem hc, ← BitVec.twoPow_eq]
    ext k hk
    by_cases hkc : k = c
    · subst hkc
      cases hold : old[k] <;> cases hbit : row[k] <;> simp [hold, hbit]
    · split <;> simp [hkc]
  rw [setPixel, State.pixel, hrow, State.xorRow]

theorem xorRow_pixel (s : State) {r c : Nat} (hr : r < 32) (row : PixelRow) :
    (s.xorRow r row).pixel r c = (s.pixel r c ^^ row.getLsbD c) := by
  simp [State.xorRow, State.pixel, rowAt_setIfInBounds _ _ _ _ hr]

/-- Row `r` of the sprite at `I`, as it falls on a display row. -/
def State.spriteRowAt (s : State) (ox r : Nat) : PixelRow := spriteRow ox (s.byteAt (s.i.toNat + r))

/-- A pass of the inner loop adds one column of the sprite row to what the earlier passes drew. -/
theorem drawPixel_eq (s : State) {ox c : Nat} (oy r : Nat) (acc : State × Bool) (hox : ox + 7 ≤ 63) (hc : c < 8) :
    drawPixel s ox oy r acc c =
      (acc.1.xorRow (oy + r) (s.spriteRowAt ox r &&& BitVec.twoPow 64 (ox + c)),
        acc.2 || ((s.spriteRowAt ox r).getLsbD (ox + c) && acc.1.pixel (oy + r) (ox + c))) := by
  have hcol : ox + c < 64 := by omega
  have hbit : (s.byteAt (s.i.toNat + r)).getLsbD (7 - c) = (s.spriteRowAt ox r).getLsbD (ox + c) := by
    simp [State.spriteRowAt, spriteRow_getLsbD _ _ _ hcol, hc]
  rw [drawPixel, hbit, setPixel_xor _ _ hcol]

/-- A sprite row is empty left of its origin. -/
theorem columnsBelow_spriteRow_left (ox : Nat) (b : Byte) : columnsBelow ox (spriteRow ox b) = 0#64 := by
  refine BitVec.eq_of_getLsbD_eq fun c hc => ?_
  rw [columnsBelow_getLsbD _ _ hc, spriteRow_getLsbD _ _ _ hc]
  by_cases hlt : c < ox <;> simp [hlt]

/-- A sprite row is eight columns wide. -/
theorem columnsBelow_spriteRow_right (ox : Nat) (b : Byte) :
    columnsBelow (ox + 8) (spriteRow ox b) = spriteRow ox b := by
  refine BitVec.eq_of_getLsbD_eq fun c hc => ?_
  rw [columnsBelow_getLsbD _ _ hc, spriteRow_getLsbD _ _ _ hc]
  by_cases hlt : c < ox + 8 <;> simp [hlt]

/-- The inner loop over the first `k` columns draws what lies left of column `ox + k`. -/
theorem foldl_drawPixel_range (s : State) {ox oy r k : Nat} (acc : State × Bool) (hox : ox + 7 ≤ 63)
    (hrow : oy + r < 32) (hk : k ≤ 8) :
    (List.range k).foldl (drawPixel s ox oy r) acc =
      (acc.1.xorRow (oy + r) (columnsBelow (ox + k) (s.spriteRowAt ox r)),
        acc.2 || decide (rowAt acc.1.disp (oy + r) &&& columnsBelow (ox + k) (s.spriteRowAt ox r) ≠ 0#64)) := by
  induction k with
  | zero => simp [State.spriteRowAt, columnsBelow_spriteRow_left, xorRow_zero]
  | succ k ih =>
    have hcol : ox + k < 64 := by omega
    have hundrawn : (columnsBelow (ox + k) (s.spriteRowAt ox r)).getLsbD (ox + k) = false := by
      simp [columnsBelow_getLsbD _ _ hcol]
    rw [List.range_succ, List.foldl_append, ih (by omega), List.foldl_cons, List.foldl_nil,
      drawPixel_eq s oy r _ hox (by omega), xorRow_xorRow _ hrow, xorRow_pixel _ hrow, hundrawn, Bool.xor_false,
      ← columnsBelow_succ, ← Nat.add_assoc, and_columnsBelow_succ_ne_zero _ _ hcol, Bool.or_assoc, State.pixel]

/-- The first `m` bytes of the sprite at `I`: `spriteBytes` counted by a number, for the induction on the rows drawn. -/
def State.spriteBytesTo (s : State) (m : Nat) : List Byte := (List.range m).map fun k => s.byteAt (s.i.toNat + k)

theorem spriteBytesTo_length (s : State) (m : Nat) : (s.spriteBytesTo m).length = m := by simp [State.spriteBytesTo]

theorem spriteBytesTo_succ (s : State) (m : Nat) :
    s.spriteBytesTo (m + 1) = s.spriteBytesTo m ++ [s.byteAt (s.i.toNat + m)] := by
  simp [State.spriteBytesTo, List.range_succ]

theorem blit_concat (ox : Nat) (d : Vector PixelRow 32) (oy : Nat) (bs : List Byte) (b : Byte) :
    blit ox d oy (bs ++ [b]) = (blit ox d oy bs).setIfInBounds (oy + bs.length)
      (rowAt (blit ox d oy bs) (oy + bs.length) ^^^ spriteRow ox b) := by
  induction bs generalizing d oy with
  | nil => rfl
  | cons a bs ih => rw [List.cons_append, blit, ih, blit, List.length_cons, Nat.add_assoc oy 1, Nat.add_comm 1]

theorem collides_concat (d : Vector PixelRow 32) (ox oy : Nat) (bs : List Byte) (b : Byte) :
    collides d ox oy (bs ++ [b]) =
      (collides d ox oy bs || decide (rowAt d (oy + bs.length) &&& spriteRow ox b ≠ 0#64)) := by
  induction bs generalizing oy with
  | nil => simp [collides]
  | cons a bs ih =>
    rw [List.cons_append, collides, ih, collides, List.length_cons, Nat.add_assoc oy 1, Nat.add_comm 1, Bool.or_assoc]

/-- The two loops are the blitter and its collision, over the first `m` sprite bytes; a row is drawn once, so each pass
finds it as it was before the instruction. -/
theorem drawLoops_eq (s : State) {ox oy m : Nat} (hfit : spriteFits ox oy m = true) : drawLoops s ox oy m =
    (s.setDisp (blit ox s.disp oy (s.spriteBytesTo m)), collides s.disp ox oy (s.spriteBytesTo m)) := by
  induction m with
  | zero => rfl
  | succ m ih =>
    rw [spriteFits_iff] at ih hfit
    have hrow : oy + m < 32 := by omega
    have hundrawn : rowAt (blit ox s.disp oy (s.spriteBytesTo m)) (oy + m) = rowAt s.disp (oy + m) := by
      rw [rowAt_blit _ _ _ _ _ hrow, spriteBytesTo_length, if_neg (by omega)]
    rw [drawLoops] at ih ⊢
    rw [List.range_succ (n := m), List.foldl_append, ih (by omega), List.foldl_cons, List.foldl_nil,
      foldl_drawPixel_range s _ (by omega) hrow le_rfl, State.spriteRowAt, columnsBelow_spriteRow_right,
      spriteBytesTo_succ, blit_concat, collides_concat, spriteBytesTo_length, State.xorRow, setDisp_disp, hundrawn]
    rfl

end Sys2Proof.Machine

/-! The statements of the sprite blitter. -/

namespace Sys2Proof.Machine

/-- Settles O19: each pixel of the blitted display, and VF by the table of R22. -/
theorem drawSpriteXorsAndReportsErasure : Obligations.DrawSpriteXorsAndReportsErasure := by
  intro x y n s
  refine ⟨decodeWord_encode (.drawSprite x y n), fun hfits => ?_⟩
  have hspan : spanFits s.i.toNat n.toNat = true := (spanFits_iff ..).mpr (hfits.imp_right And.left)
  have hgrid : spriteFits (originColumn (s.reg x)) (originRow (s.reg y)) n.toNat = true :=
    (spriteFits_iff ..).mpr (hfits.imp_right fun ⟨_, hcol, hrow⟩ => ⟨Nat.add_le_add_right hcol 7, hrow⟩)
  obtain ⟨t, hnext⟩ : ∃ t, exec (.drawSprite x y n) s = .next t :=
    ⟨_, exec_drawSprite_next_iff.mpr ⟨⟨hspan, hgrid⟩, rfl⟩⟩
  obtain ⟨flag, hflag⟩ := exec_vf_eq_byteOfBool hnext rfl
  refine ⟨t, hnext, fun r c => exec_drawSprite_pixel hnext, ?_, exec_vfAsTable hnext, fun z hz => ?_,
    exec_pcAsTable hnext, exec_keepsAllBut hnext⟩
  · rw [hflag]
    cases flag with
    | false => exact .inl rfl
    | true => exact .inr rfl
  · exact exec_reg_of_not_written hnext rfl fun hvf => absurd hvf (List.ne_of_not_mem_cons hz)

/-- Settles O21: both draws XOR the same bits, so the second undoes the first, and what it erases the first had set. -/
theorem drawingTwiceRestoresTheDisplay : Obligations.DrawingTwiceRestoresTheDisplay := by
  intro x y n s t u hfirst hdisp hi hmem hx hy
  obtain ⟨hfits, -⟩ := exec_drawSprite_next_iff.mp hfirst
  obtain ⟨w, hsecond⟩ : ∃ w, exec (.drawSprite x y n) u = .next w :=
    ⟨_, exec_drawSprite_next_iff.mpr ⟨by rwa [hi, hx, hy], rfl⟩⟩
  have hrestored (r c : Nat) (hr : r < 32) (hc : c < 64) : w.pixel r c = s.pixel r c := by
    rw [exec_drawSprite_pixel hsecond hr hc, hx, hy, spriteBit_congr hi hmem, hdisp r c hr hc,
      exec_drawSprite_pixel hfirst hr hc, Bool.xor_assoc, Bool.xor_self, Bool.xor_false]
  refine ⟨w, hsecond, hrestored, (exec_vfAsTable hsecond).trans ?_⟩
  refine exists_congr fun r => exists_congr fun c => and_congr_right fun hr => and_congr_right fun hc => ?_
  rw [hdisp r c hr hc, hrestored r c hr hc, and_comm]

/-- Settles O22: the three cases of `draw-sprite`, and the loops as the blitter. -/
theorem drawSpriteRefinesThePixelLoops : Obligations.DrawSpriteRefinesThePixelLoops := by
  intro x y n s
  refine ⟨decodeWord_encode (.drawSprite x y n), ?_⟩
  rw [← spanFits_eq_false_iff, ← spriteFits_eq_false_iff]
  rcases exec_drawSprite_cases x y n s with ⟨hspan, hfault⟩ | ⟨hspan, hgrid, hfault⟩ | ⟨hspan, hgrid, hnext⟩
  · exact ⟨fun _ => hfault, fun h => absurd hspan h, fun h => absurd hspan h⟩
  · exact ⟨fun h => absurd hspan (h ▸ Bool.false_ne_true), fun _ _ => hfault, fun _ h => absurd hgrid h⟩
  · refine ⟨fun h => absurd hspan (h ▸ Bool.false_ne_true), fun _ h => absurd hgrid (h ▸ Bool.false_ne_true),
      fun _ _ => ?_⟩
    rw [originColumn, originRow] at hgrid
    rw [hnext, drawLoops_eq s hgrid]
    rfl

/-- Settles O20: the two faults of O22. -/
theorem drawSpriteFaultsOutsideMemoryOrGrid : Obligations.DrawSpriteFaultsOutsideMemoryOrGrid := by
  intro x y n s hn
  obtain ⟨-, hmemory, hdisplay, -⟩ := drawSpriteRefinesThePixelLoops x y n s
  exact ⟨fun hout => hmemory ⟨hn, hout⟩, fun hin hout => hdisplay (by omega) (by omega)⟩

end Sys2Proof.Machine

/-! SUPPORT. A key skip by the key V[x] names, and the smallest pressed key by what is said of the keys. -/

namespace Sys2Proof.Machine

variable {s : State} {x k : Nibble}

/-- Where V[x] is the index of key `k`, the skip is on the state of that key. -/
theorem skipOnKey_of_reg_eq (wanted : Bool) (h : (s.reg x).toNat = k.toNat) :
    skipOnKey x wanted s = .next (s.skipIf (s.keyAt k == wanted)) := by
  have hkey : (s.reg x).setWidth 4 = k := by bv_omega
  rcases skipOnKey_cases x wanted s with ⟨hout, -⟩ | ⟨-, hnext⟩
  · omega
  · rw [hnext, hkey]

theorem skipOnKey_of_reg_gt (wanted : Bool) (h : 15 < (s.reg x).toNat) :
    skipOnKey x wanted s = .fault (.keyIndexOutOfRange (s.reg x)) := by
  rcases skipOnKey_cases x wanted s with ⟨-, hfault⟩ | ⟨hin, -⟩
  · exact hfault
  · omega

/-- A pressed key below which none is pressed is the smallest pressed key (spec/46_keypad.md R172). -/
theorem lowestKey_eq_some_of_least (hk : s.keyAt k = true)
    (hleast : ∀ j : Nibble, j.toNat < k.toNat → s.keyAt j = false) : s.lowestKey = some k.toNat := by
  refine (lowestKey_some_iff s k.toNat).mpr ⟨k.isLt, hk, fun j hj => ?_⟩
  have hj16 : j < 16 := hj.trans k.isLt
  exact hleast (BitVec.ofNatLT j hj16) hj

theorem exec_loadVxBlockingOnKey_of_lowestKey_eq_some {n : Nat} (h : s.lowestKey = some n) :
    exec (.loadVxBlockingOnKey x) s = .next (s.setReg x (BitVec.ofNat 8 n)).advance := by
  rcases exec_loadVxBlockingOnKey_cases x s with ⟨m, hm, hnext⟩ | ⟨hnone, -⟩
  · cases hm.symm.trans h; exact hnext
  · exact nomatch hnone.symm.trans h

theorem exec_loadVxBlockingOnKey_of_lowestKey_eq_none (h : s.lowestKey = none) :
    exec (.loadVxBlockingOnKey x) s = .next s := by
  rcases exec_loadVxBlockingOnKey_cases x s with ⟨m, hm, -⟩ | ⟨-, hnext⟩
  · exact nomatch hm.symm.trans h
  · exact hnext

end Sys2Proof.Machine

/-! The statements of the keypad. -/

namespace Sys2Proof.Machine

/-- Settles O23: each is a skip on the state of the key V[x] names, wanted pressed or wanted not pressed. -/
theorem keySkipsReadTheKeyOfVx : Obligations.KeySkipsReadTheKeyOfVx := by
  intro x s
  refine ⟨decodeWord_encode (.skipIfKeyPressed x), decodeWord_encode (.skipIfKeyNotPressed x), fun k hk => ⟨?_, ?_⟩,
    fun hout => ⟨skipOnKey_of_reg_gt true hout, skipOnKey_of_reg_gt false hout⟩⟩
  · exact skips_of_exec_eq_skipIf (skipOnKey_of_reg_eq true hk) (congrArg (· == true)) (congrArg (· == true))
  · exact skips_of_exec_eq_skipIf (skipOnKey_of_reg_eq false hk) (congrArg (· == false)) (congrArg (· == false))

/-- Settles O24: the wait ends by writing the smallest pressed key to V[x], and a key index fits a byte. -/
theorem keyWaitTakesTheSmallestPressedKey : Obligations.KeyWaitTakesTheSmallestPressedKey := by
  intro x s
  refine ⟨decodeWord_encode (.loadVxBlockingOnKey x), fun k hk hleast => ?_, fun hnone =>
    exec_loadVxBlockingOnKey_of_lowestKey_eq_none ((lowestKey_none_iff s).mpr hnone)⟩
  obtain ⟨t, hnext, hval, hframe⟩ := writesOneReg_of_exec_eq_setReg_advance
    (exec_loadVxBlockingOnKey_of_lowestKey_eq_some (lowestKey_eq_some_of_least hk hleast))
  refine ⟨t, hnext, ?_, hframe⟩
  rw [hval, BitVec.toNat_ofNat, Nat.mod_eq_of_lt (k.isLt.trans (by decide))]

end Sys2Proof.Machine

/-! The statement of the timers. -/

namespace Sys2Proof.Machine

/-- Settles O25: the read of DT writes one register; a write to a timer leaves `pc` by the table of R26 and keeps the frame
of every instruction. -/
theorem timerLoadsCopyBetweenVxAndTimers : Obligations.TimerLoadsCopyBetweenVxAndTimers := by
  intro x s
  refine ⟨decodeWord_encode (.loadVxFromDelayTimer x), decodeWord_encode (.loadDelayTimer x),
    decodeWord_encode (.loadSoundTimer x),
    writesOneReg_of_exec_eq_setReg_advance (exec_loadVxFromDelayTimer x s), ?_, ?_⟩
  · have hnext := exec_loadDelayTimer x s
    exact ⟨_, hnext, (advance_dt _).trans (setDt_dt ..), exec_pcAsTable hnext, exec_keepsAllBut hnext⟩
  · have hnext := exec_loadSoundTimer x s
    exact ⟨_, hnext, (advance_st _).trans (setSt_st ..), exec_pcAsTable hnext, exec_keepsAllBut hnext⟩

end Sys2Proof.Machine

/-! SUPPORT. The fault of each instruction as a function of the state, so that who raises a fault, and what a fault does
not depend on, are read off one table (spec/60_exceptions.md R221 to R227). -/

namespace Sys2Proof.Machine

variable {i : Instr} {s : State} {f : Fault}

/-- The fault an instruction raises in a state, if it raises one: `return` R224, `call` R223, `draw-sprite` R225 and
R226, the key skips R227, the stores and the load at `I` R226. -/
def execFault (s : State) : Instr → Option Fault
  | .ret => if s.sp = 0#4 then some (.stackUnderflow s.pc) else none
  | .call _ => if s.sp = 15#4 then some (.stackOverflow s.pc) else none
  | .drawSprite x y n =>
    if 1 ≤ n.toNat ∧ s.i.toNat + n.toNat > 4096 then some (.memoryOutOfBounds (max s.i.toNat 4096))
    else if 1 ≤ n.toNat ∧ ((s.reg x).toNat % 64 > 56 ∨ (s.reg y).toNat % 32 + n.toNat > 32) then
      some (.displayOutOfBounds ((s.reg x).toNat % 64) ((s.reg y).toNat % 32) n.toNat)
    else none
  | .skipIfKeyPressed x | .skipIfKeyNotPressed x =>
    if (s.reg x).toNat > 15 then some (.keyIndexOutOfRange (s.reg x)) else none
  | .storeBcd _ => if s.i.toNat + 2 ≥ 4096 then some (.memoryOutOfBounds (max s.i.toNat 4096)) else none
  | .storeBlock x | .loadBlock x =>
    if s.i.toNat + x.toNat ≥ 4096 then some (.memoryOutOfBounds (max s.i.toNat 4096)) else none
  | _ => none

theorem skipOnKey_fault_iff {x : Nibble} {wanted : Bool} : skipOnKey x wanted s = .fault f ↔
    (s.reg x).toNat > 15 ∧ .keyIndexOutOfRange (s.reg x) = f := by
  rcases skipOnKey_cases x wanted s with ⟨h, e⟩ | ⟨h, e⟩
  · simp [e, h]
  · simp [e, h.not_gt]

/-- A span that is not empty leaves memory when its last byte does. -/
theorem spanFits_succ_eq_false_iff (a k : Nat) : spanFits a (k + 1) = false ↔ a + k ≥ 4096 := by
  rw [spanFits_eq_false_iff]; omega

/-- A store at `I` faults where the address of its last byte does not exist, with the lowest offending address. -/
theorem storeAtI_fault_iff {bs : List Byte} {k : Nat} (hlen : bs.length = k + 1) : storeAtI bs s = .fault f ↔
    s.i.toNat + k ≥ 4096 ∧ .memoryOutOfBounds (max s.i.toNat 4096) = f := by
  rw [← spanFits_succ_eq_false_iff, ← hlen]
  rcases storeAtI_cases bs s with ⟨h, e⟩ | ⟨h, e⟩ <;> simp [e, h, Config.memSize]

theorem exec_loadBlock_fault_iff {x : Nibble} : exec (.loadBlock x) s = .fault f ↔
    s.i.toNat + x.toNat ≥ 4096 ∧ .memoryOutOfBounds (max s.i.toNat 4096) = f := by
  rw [← spanFits_succ_eq_false_iff]
  rcases exec_loadBlock_cases x s with ⟨h, e⟩ | ⟨h, e⟩ <;> simp [e, h, Config.memSize]

theorem exec_drawSprite_fault_iff {x y n : Nibble} :
    exec (.drawSprite x y n) s = .fault f ↔ execFault s (.drawSprite x y n) = some f := by
  have hmem : spanFits s.i.toNat n.toNat = false ↔ 1 ≤ n.toNat ∧ s.i.toNat + n.toNat > 4096 := by
    rw [spanFits_eq_false_iff]; omega
  have hdisp : spriteFits (originColumn (s.reg x)) (originRow (s.reg y)) n.toNat = false ↔
      1 ≤ n.toNat ∧ ((s.reg x).toNat % 64 > 56 ∨ (s.reg y).toNat % 32 + n.toNat > 32) := by
    rw [spriteFits_eq_false_iff, originColumn, originRow]; omega
  simp only [execFault, ← hmem, ← hdisp]
  rcases exec_drawSprite_cases x y n s with ⟨hm, e⟩ | ⟨hm, hd, e⟩ | ⟨hm, hd, e⟩
  · simp [e, hm, Config.memSize]
  · simp [e, hm, hd]; rfl
  · simp [e, hm, hd]

/-- The table is the machine's: an instruction faults exactly as its entry says. -/
theorem exec_fault_iff : exec i s = .fault f ↔ execFault s i = some f := by
  cases i with
  | ret => rcases exec_ret_cases s with ⟨h, e⟩ | ⟨h, e⟩ <;> simp [e, execFault, h]
  | call nnn => rcases exec_call_cases nnn s with ⟨h, e⟩ | ⟨h, e⟩ <;> simp [e, execFault, h]
  | drawSprite x y n => exact exec_drawSprite_fault_iff
  | skipIfKeyPressed x => rw [exec_skipIfKeyPressed, skipOnKey_fault_iff]; simp [execFault]
  | skipIfKeyNotPressed x => rw [exec_skipIfKeyNotPressed, skipOnKey_fault_iff]; simp [execFault]
  | loadVxBlockingOnKey x =>
    rcases exec_loadVxBlockingOnKey_cases x s with ⟨k, -, e⟩ | ⟨-, e⟩ <;> simp [e, execFault]
  | storeBcd x => rw [exec_storeBcd, storeAtI_fault_iff (bcdDigits_length (s.reg x))]; simp [execFault]
  | storeBlock x => rw [exec_storeBlock, storeAtI_fault_iff (regBlock_length s x)]; simp [execFault]
  | loadBlock x => simpa [execFault] using exec_loadBlock_fault_iff
  | _ => simp [execFault]

/-- An instruction that raises no fault goes on. -/
theorem exec_next_of_execFault_eq_none (h : execFault s i = none) : ∃ t, exec i s = .next t := by
  cases hexec : exec i s with
  | next t => exact ⟨t, rfl⟩
  | fault f => exact nomatch h.symm.trans (exec_fault_iff.mp hexec)
  | refused r => exact absurd hexec (exec_ne_refused i s r)

end Sys2Proof.Machine

/-! SUPPORT. The step's fault by the word fetched, and what a fault does not depend on: the timers and the keys. -/

namespace Sys2Proof.Machine

variable {i : Instr} {s : State} {f : Fault}

theorem step_of_fetches (h : s.fetches i) : step s = exec i s := by
  obtain ⟨op, hfetch, hdecode⟩ := h
  simp [step, hfetch, hdecode]

/-- A step faults at the fetch, at the decode, or as the entry of the instruction fetched says. -/
theorem step_fault_iff_execFault : step s = .fault f ↔ s.fetch = .error f ∨
    (∃ op, s.fetch = .ok op ∧ decodeWord op = none ∧ f = .unknownOpcode op) ∨
    ∃ i, s.fetches i ∧ execFault s i = some f := by
  simp only [step_fault_iff, exec_fault_iff, State.fetches]
  refine or_congr_right (or_congr_right ⟨?_, ?_⟩)
  · rintro ⟨op, i, hfetch, hdecode, hfault⟩; exact ⟨i, ⟨op, hfetch, hdecode⟩, hfault⟩
  · rintro ⟨i, ⟨op, hfetch, hdecode⟩, hfault⟩; exact ⟨op, i, hfetch, hdecode, hfault⟩

theorem execFault_withKeys (s : State) (keys : Vector Bool 16) (i : Instr) :
    execFault { s with keys := keys } i = execFault s i := by
  cases i <;> rfl

theorem execFault_tickTimers (s : State) (i : Instr) : execFault s.tickTimers i = execFault s i := by
  cases i <;> rfl

theorem step_tickTimers_fault_iff : step s.tickTimers = .fault f ↔ step s = .fault f := by
  simp only [step_fault_iff_execFault, execFault_tickTimers]; rfl

theorem step_setKeyAt_fault_iff {k : Nibble} {pressed : Bool} :
    step (s.setKeyAt k pressed) = .fault f ↔ step s = .fault f := by
  have hentry : ∀ i, execFault (s.setKeyAt k pressed) i = execFault s i := execFault_withKeys s _
  simp only [step_fault_iff_execFault, hentry]; rfl

end Sys2Proof.Machine

/-! SUPPORT. Schedules: one induction for what every operation keeps, and the operations that keep the invariant or a
fault. -/

namespace Sys2Proof.Machine

variable {s t : State} {f : Fault} {ops : List HostOp}

/-- What every operation of a schedule keeps, holds of the state the schedule leaves. -/
theorem runSchedule_induction {P : State → Prop} (hkeeps : ∀ op ∈ ops, ∀ s, P s → P (s.apply op).1) (hs : P s)
    (h : s.runSchedule ops = .ok t) : P t := by
  induction ops generalizing s with
  | nil => cases h; exact hs
  | cons op ops ih =>
    obtain ⟨hop, hops⟩ := List.forall_mem_cons.mp hkeeps
    rcases runSchedule_cons_cases s op ops with ⟨f, -, e⟩ | ⟨-, e⟩
    · exact nomatch e.symm.trans h
    · exact ih hops (hop s hs) (e.symm.trans h)

/-- A schedule none of whose operations can return a fatal fault leaves a state. -/
theorem runSchedule_ok_of_keeps {P : State → Prop} (hkeeps : ∀ op ∈ ops, ∀ s, P s → P (s.apply op).1)
    (hnonfatal : ∀ op ∈ ops, ∀ s, P s → (s.apply op).2.fatal = none) (hs : P s) :
    ∃ t, s.runSchedule ops = .ok t := by
  induction ops generalizing s with
  | nil => exact ⟨s, rfl⟩
  | cons op ops ih =>
    obtain ⟨hop, hops⟩ := List.forall_mem_cons.mp hkeeps
    obtain ⟨hfatal, hfatals⟩ := List.forall_mem_cons.mp hnonfatal
    rcases runSchedule_cons_cases s op ops with ⟨f, hf, -⟩ | ⟨-, e⟩
    · exact nomatch hf.symm.trans (hfatal s hs)
    · rw [e]; exact ih hops hfatals (hop s hs)

theorem stepOp_inv (h : s.inv = true) : s.stepOp.1.inv = true := by
  unfold State.stepOp
  split
  next hstep => exact step_inv h hstep
  all_goals exact h

/-- load-image writes inside memory or nothing. -/
theorem loadImage_inv {bytes : List Byte} {base : Nat} (h : s.inv = true) : (s.loadImage bytes base).1.inv = true := by
  rcases loadImage_cases bytes base s with ⟨hfit, e⟩ | ⟨-, e⟩ <;> rw [e]
  · obtain ⟨hwf, hfont, hflow⟩ := (inv_iff s).mp h
    exact (inv_iff _).mpr ⟨memSetBytes_wf hfit hwf, hfont, hflow⟩
  · exact h

/-- After reset memory lists no cell, FONT_IMAGE is the one before, and control flow is that of the reset state. -/
theorem resetOp_inv (h : s.inv = true) : s.resetOp.inv = true := by
  obtain ⟨-, hfont, -⟩ := (inv_iff s).mp h
  have hflow : State.reset.flowInRange = true := by decide
  exact (inv_iff _).mpr ⟨rfl, hfont, hflow⟩

/-- Every operation keeps the invariant: the timers and the keys are no part of it. -/
theorem apply_inv (op : HostOp) (h : s.inv = true) : (s.apply op).1.inv = true := by
  cases op with
  | reset => exact resetOp_inv h
  | loadImage bytes base => exact loadImage_inv h
  | step => exact stepOp_inv h
  | tickTimers | setKey k pressed | readDisplay | readRegisters | readStack => exact h

/-- Every operation that ends no standstill keeps the fault and `pc` (spec/60_exceptions.md R232). -/
theorem apply_keeps_fault (hop : op.endsStandstill = false) (h : step s = .fault f) :
    step (s.apply op).1 = .fault f ∧ (s.apply op).1.pc = s.pc := by
  cases op with
  | reset | loadImage bytes base => exact nomatch hop
  | step =>
    have hsame : (s.apply .step).1 = s := congrArg Prod.fst (stepOp_of_fault h)
    rw [hsame]; exact ⟨h, rfl⟩
  | tickTimers => exact ⟨step_tickTimers_fault_iff.mpr h, rfl⟩
  | setKey k pressed => exact ⟨step_setKeyAt_fault_iff.mpr h, rfl⟩
  | readDisplay | readRegisters | readStack => exact ⟨h, rfl⟩

/-- A state whose step raises a non-fatal fault gives no operation a fatal one to return. -/
theorem fatal_apply_eq_none (h : step s = .fault f) (hf : f.isFatal = false) (op : HostOp) :
    (s.apply op).2.fatal = none := by
  refine Option.eq_none_iff_forall_ne_some.mpr fun g hg => ?_
  obtain ⟨-, hstep, hfatal⟩ := (fatal_apply_iff s op g).mp hg
  cases h.symm.trans hstep
  exact nomatch hf.symm.trans hfatal

/-- A step that raises a fatal fault ends the schedule. -/
theorem runSchedule_step_of_fatal (ops : List HostOp) (h : step s = .fault f) (hf : f.isFatal = true) :
    s.runSchedule (.step :: ops) = .error f := by
  have hfatal : (s.apply .step).2.fatal = some f := (fatal_apply_iff s .step f).mpr ⟨rfl, h, hf⟩
  simp [State.runSchedule, hfatal]

end Sys2Proof.Machine

/-! The statements of schedules. -/

namespace Sys2Proof.Machine

/-- Settles O59: every operation keeps the invariant. -/
theorem everyScheduleKeepsTheInvariant : Obligations.EveryScheduleKeepsTheInvariant :=
  fun _ _ _ hinv h => runSchedule_induction (P := (State.inv · = true)) (fun op _ _ => apply_inv op) hinv h

/-- Settles O49: a fatal fault ends the schedule; a fault that is not fatal, and `pc` with it, is kept by each operation
that ends no standstill. -/
theorem aFaultIsAStandstill : Obligations.AFaultIsAStandstill := by
  intro ops s f h
  refine ⟨runSchedule_step_of_fatal ops h, fun hf hops => ?_⟩
  have hkeeps : ∀ op ∈ ops, ∀ u, step u = .fault f ∧ u.pc = s.pc →
      step (u.apply op).1 = .fault f ∧ (u.apply op).1.pc = s.pc := fun op hop u ⟨hu, hpc⟩ =>
    (apply_keeps_fault (hops op hop) hu).imp_right (·.trans hpc)
  obtain ⟨t, ht⟩ := runSchedule_ok_of_keeps hkeeps (fun op _ u hu => fatal_apply_eq_none hu.1 hf op) ⟨h, rfl⟩
  exact ⟨t, ht, runSchedule_induction hkeeps ⟨h, rfl⟩ ht⟩

end Sys2Proof.Machine

/-! SUPPORT. Each kind of fault with the instructions that raise it, and the fault of a fetch. -/

namespace Sys2Proof.Machine

variable {i : Instr} {s : State} {f : Fault} {a : Nat}

/-- The two faults of `draw-sprite`, memory before display (spec/60_exceptions.md R230, D24). -/
theorem execFault_drawSprite_iff {x y n : Nibble} : execFault s (.drawSprite x y n) = some f ↔
    (1 ≤ n.toNat ∧ s.i.toNat + n.toNat > 4096 ∧ .memoryOutOfBounds (max s.i.toNat 4096) = f) ∨
    (1 ≤ n.toNat ∧ s.i.toNat + n.toNat ≤ 4096 ∧
      ((s.reg x).toNat % 64 > 56 ∨ (s.reg y).toNat % 32 + n.toNat > 32) ∧
      .displayOutOfBounds ((s.reg x).toNat % 64) ((s.reg y).toNat % 32) n.toNat = f) := by
  simp only [execFault]
  split
  next hmem => simp [hmem, hmem.2.not_ge]
  next hmem =>
    simp only [Option.ite_none_right_eq_some, Option.some.injEq]
    grind

theorem execFault_ne_unknownOpcode (s : State) (i : Instr) (op : Word) : execFault s i ≠ some (.unknownOpcode op) := by
  cases i with
  | drawSprite x y n => simp [execFault_drawSprite_iff]
  | _ => simp [execFault]

theorem execFault_eq_stackOverflow_iff {a : Word} : execFault s i = some (.stackOverflow a) ↔
    (∃ nnn, i = .call nnn) ∧ s.sp.toNat = 15 ∧ a = s.pc := by
  cases i with
  | drawSprite x y n => simp [execFault_drawSprite_iff]
  | _ => simp [execFault, ← BitVec.toNat_inj, eq_comm (a := a)]

theorem execFault_eq_stackUnderflow_iff {a : Word} : execFault s i = some (.stackUnderflow a) ↔
    i = .ret ∧ s.sp.toNat = 0 ∧ a = s.pc := by
  cases i with
  | drawSprite x y n => simp [execFault_drawSprite_iff]
  | _ => simp [execFault, ← BitVec.toNat_inj, eq_comm (a := a)]

theorem execFault_eq_keyIndexOutOfRange_iff {k : Byte} : execFault s i = some (.keyIndexOutOfRange k) ↔
    ∃ x, (i = .skipIfKeyPressed x ∨ i = .skipIfKeyNotPressed x) ∧ (s.reg x).toNat > 15 ∧ k = s.reg x := by
  cases i with
  | drawSprite x y n => simp [execFault_drawSprite_iff]
  | _ => simp [execFault, eq_comm (a := k)]

theorem execFault_eq_displayOutOfBounds_iff {ox oy k : Nat} : execFault s i = some (.displayOutOfBounds ox oy k) ↔
    ∃ x y n, i = .drawSprite x y n ∧ 1 ≤ n.toNat ∧ s.i.toNat + n.toNat ≤ 4096 ∧
      ((s.reg x).toNat % 64 > 56 ∨ (s.reg y).toNat % 32 + n.toNat > 32) ∧
      ox = (s.reg x).toNat % 64 ∧ oy = (s.reg y).toNat % 32 ∧ k = n.toNat := by
  cases i with
  | drawSprite x y n => simp [execFault_drawSprite_iff, eq_comm (a := ox), eq_comm (a := oy), eq_comm (a := k)]
  | _ => simp [execFault]

theorem execFault_eq_memoryOutOfBounds_iff : execFault s i = some (.memoryOutOfBounds a) ↔
    ((∃ x y n, i = .drawSprite x y n ∧ 1 ≤ n.toNat ∧ s.i.toNat + n.toNat > 4096) ∨
      (∃ x, i = .storeBcd x ∧ s.i.toNat + 2 ≥ 4096) ∨
      (∃ x, (i = .storeBlock x ∨ i = .loadBlock x) ∧ s.i.toNat + x.toNat ≥ 4096)) ∧ a = max s.i.toNat 4096 := by
  cases i with
  | drawSprite x y n => simp [execFault_drawSprite_iff, eq_comm (a := a), and_assoc]
  | _ => simp [execFault, eq_comm (a := a)]

/-- A fetch faults where its second byte does not exist, with the lowest offending address (spec/20_memory.md R53). -/
theorem fetch_error_iff : s.fetch = .error f ↔ s.pc.toNat ≥ 0xFFF ∧ f = .memoryOutOfBounds (max s.pc.toNat 4096) := by
  rw [fetch_eq, Config.memSize]
  rcases Nat.lt_trichotomy s.pc.toNat 0xFFF with hin | hlast | hout
  · rw [if_pos (by omega)]; simp [hin]
  · simp [hlast, eq_comm (a := f)]
  · rw [if_neg (by omega), if_neg (by omega), max_eq_left (by omega)]; simp [hout.le, eq_comm (a := f)]

/-- A fault of neither the fetch nor the decode is raised by the instruction fetched. -/
theorem step_fault_iff_of_raised (hfetch : ∀ a, f ≠ .memoryOutOfBounds a) (hdecode : ∀ op, f ≠ .unknownOpcode op) :
    step s = .fault f ↔ ∃ i, s.fetches i ∧ execFault s i = some f := by
  have hmem : s.fetch ≠ .error f := fun h => hfetch _ (fetch_error_iff.mp h).2
  simp [step_fault_iff_execFault, hmem, hdecode]

end Sys2Proof.Machine

/-! SUPPORT. The bytes at `pc` and the word fetched, and a self-jump as a step. -/

namespace Sys2Proof.Machine

variable {i : Instr} {s : State}

theorem decodeWord_of_decodeBytes_pair {high low : Byte} {rest : List Byte}
    (h : decodeBytes [high, low] = .ok (i, rest)) : decodeWord (wordOfBytes high low) = some i := by
  rw [decodeBytes] at h
  split at h
  next hdecode => cases h; exact hdecode
  next => cases h

theorem isFinal_iff (s : State) : s.isFinal = true ↔ s.fetches (.jump (s.pc.setWidth 12)) := by
  unfold State.isFinal State.fetches
  cases s.fetch <;> simp

/-- A fetchable `pc` fits the 12 bits of a jump's target, so a jump to it stands still (spec/70_reset_and_hazards.md
R273). -/
theorem step_of_isFinal (h : s.isFinal = true) : step s = .next s := by
  obtain ⟨op, hfetch, -⟩ := (isFinal_iff s).mp h
  have hpc : (s.pc.setWidth 12).setWidth 16 = s.pc := by
    have := fetch_ok_pc hfetch
    rw [Config.memSize] at this
    bv_omega
  rw [step_of_fetches ((isFinal_iff s).mp h), exec_jump, hpc]; rfl

end Sys2Proof.Machine

/-! SUPPORT. An instruction that reads no key goes on alike whatever the keys are. -/

namespace Sys2Proof.Machine

variable {i : Instr} {s t : State}

theorem skipIf_withKeys (s : State) (keys : Vector Bool 16) (c : Bool) :
    State.skipIf { s with keys := keys } c = { s.skipIf c with keys := keys } := by
  cases c <;> rfl

/-- Each next state is a composition of updates, and none of them but `setKeyAt` touches the keys. -/
theorem exec_withKeys_next (hi : readsKeys i = false) (keys : Vector Bool 16) (h : exec i s = .next t) :
    exec i { s with keys := keys } = .next { t with keys := keys } := by
  cases i with
  | skipIfKeyPressed x | skipIfKeyNotPressed x | loadVxBlockingOnKey x => exact nomatch hi
  | ret => obtain ⟨hsp, rfl⟩ := exec_ret_next_iff.mp h; exact exec_ret_next_iff.mpr ⟨hsp, rfl⟩
  | call nnn => obtain ⟨hsp, rfl⟩ := exec_call_next_iff.mp h; exact exec_call_next_iff.mpr ⟨hsp, rfl⟩
  | drawSprite x y n =>
    obtain ⟨hfit, rfl⟩ := exec_drawSprite_next_iff.mp h; exact exec_drawSprite_next_iff.mpr ⟨hfit, rfl⟩
  | storeBcd x | storeBlock x => obtain ⟨hfit, rfl⟩ := storeAtI_next_iff.mp h; exact storeAtI_next_iff.mpr ⟨hfit, rfl⟩
  | loadBlock x => obtain ⟨hfit, rfl⟩ := exec_loadBlock_next_iff.mp h; exact exec_loadBlock_next_iff.mpr ⟨hfit, rfl⟩
  | skipIfEqualByte x _ | skipIfNotEqualByte x _ | skipIfEqualReg x _ | skipIfNotEqualReg x _ =>
    cases h; exact congrArg Host.Outcome.next (skipIf_withKeys s keys _)
  | _ => cases h; rfl

end Sys2Proof.Machine

/-! The statements of faults and of the step. -/

namespace Sys2Proof.Machine

/-- Settles O47: each is a fault of the execution, raised by the instructions of its kind. -/
theorem stackAndKeyFaultsExactly : Obligations.StackAndKeyFaultsExactly := by
  intro s
  refine ⟨fun a => ?_, fun a => ?_, fun k => ?_⟩ <;> rw [step_fault_iff_of_raised (by simp) (by simp)]
  · simp only [execFault_eq_stackOverflow_iff]
    constructor
    · rintro ⟨_, hi, ⟨nnn, rfl⟩, hsp, hpc⟩; exact ⟨⟨nnn, hi⟩, hsp, hpc⟩
    · rintro ⟨⟨nnn, hi⟩, hsp, hpc⟩; exact ⟨_, hi, ⟨nnn, rfl⟩, hsp, hpc⟩
  · simp only [execFault_eq_stackUnderflow_iff]
    constructor
    · rintro ⟨_, hi, rfl, hsp, hpc⟩; exact ⟨hi, hsp, hpc⟩
    · rintro ⟨hi, hsp, hpc⟩; exact ⟨_, hi, rfl, hsp, hpc⟩
  · simp only [execFault_eq_keyIndexOutOfRange_iff]
    constructor
    · rintro ⟨_, hi, x, rfl | rfl, hx, hk⟩
      · exact ⟨x, .inl hi, hx, hk⟩
      · exact ⟨x, .inr hi, hx, hk⟩
    · rintro ⟨x, hi | hi, hx, hk⟩
      · exact ⟨_, hi, x, .inl rfl, hx, hk⟩
      · exact ⟨_, hi, x, .inr rfl, hx, hk⟩

/-- Settles O48: the unknown words are those that select no row; the display fault is raised by `draw-sprite`; the
memory fault by the fetch, or by an instruction at `I`. -/
theorem opcodeDisplayAndMemoryFaultsExactly : Obligations.OpcodeDisplayAndMemoryFaultsExactly := by
  intro s
  refine ⟨fun op => ?_, fun ox oy k => ?_, fun a => ?_⟩
  · rw [← decodingFollowsTheMasks.2.2, step_fault_iff_execFault]
    simp [fetch_error_iff, execFault_ne_unknownOpcode]
  · rw [step_fault_iff_of_raised (by simp) (by simp)]
    simp only [execFault_eq_displayOutOfBounds_iff]
    constructor
    · rintro ⟨_, hi, x, y, n, rfl, hrest⟩; exact ⟨x, y, n, hi, hrest⟩
    · rintro ⟨x, y, n, hi, hrest⟩; exact ⟨_, hi, x, y, n, rfl, hrest⟩
  · rw [step_fault_iff_execFault]
    simp only [fetch_error_iff, execFault_eq_memoryOutOfBounds_iff]
    refine or_congr (by simp) ⟨?_, ?_⟩
    · rintro (⟨op, -, -, hop⟩ | ⟨_, hi, ⟨x, y, n, rfl, hout⟩ | ⟨x, rfl, hout⟩ | ⟨x, rfl | rfl, hout⟩, ha⟩)
      · exact nomatch hop
      · exact ⟨ha, .inl ⟨x, y, n, hi, hout⟩⟩
      · exact ⟨ha, .inr (.inl ⟨x, hi, hout⟩)⟩
      · exact ⟨ha, .inr (.inr ⟨x, .inl hi, hout⟩)⟩
      · exact ⟨ha, .inr (.inr ⟨x, .inr hi, hout⟩)⟩
    · rintro ⟨ha, ⟨x, y, n, hi, hout⟩ | ⟨x, hi, hout⟩ | ⟨x, hi | hi, hout⟩⟩
      · exact .inr ⟨_, hi, .inl ⟨x, y, n, rfl, hout⟩, ha⟩
      · exact .inr ⟨_, hi, .inr (.inl ⟨x, rfl, hout⟩), ha⟩
      · exact .inr ⟨_, hi, .inr (.inr ⟨x, .inl rfl, hout⟩), ha⟩
      · exact .inr ⟨_, hi, .inr (.inr ⟨x, .inr rfl, hout⟩), ha⟩

/-- Settles O45: the three sources of a fault, and for a sprite outside memory and grid the memory fault of O20. -/
theorem faultsComeInOrder : Obligations.FaultsComeInOrder := by
  intro s
  refine ⟨fun f hfetch => ?_, fun op hfetch hnone => ?_, fun i f hi hexec => ?_, fun x y n hi hn hout _ => ?_⟩
  · exact (step_fault_iff s f).mpr (.inl hfetch)
  · exact (step_fault_iff s _).mpr (.inr (.inl ⟨op, hfetch, hnone, rfl⟩))
  · exact (step_of_fetches hi).trans hexec
  · exact (step_of_fetches hi).trans ((drawSpriteFaultsOutsideMemoryOrGrid x y n s hn).1 hout)

/-- Settles O46: the step operation hands back the state it found. -/
theorem faultsLeaveNoTrace : Obligations.FaultsLeaveNoTrace := fun _ _ => stepOp_of_fault

/-- Settles O44: the two bytes are the word fetched. -/
theorem stepRunsTheDecodedInstruction : Obligations.StepRunsTheDecodedInstruction := by
  intro s i hpc hbytes _
  exact step_of_fetches ⟨_, (fetch_eq s).trans (if_pos hpc), decodeWord_of_decodeBytes_pair hbytes⟩

/-- Settles O60: a final state's step goes on, so it does not fault. -/
theorem aFaultStateIsNeverFinal : Obligations.AFaultStateIsNeverFinal := by
  refine fun s => ⟨fun f hfault => Bool.eq_false_iff.mpr fun hfinal => ?_, step_of_isFinal⟩
  exact nomatch hfault.symm.trans (step_of_isFinal hfinal)

/-- Settles O51: going on by the updates of each instruction, faulting by the entry of each in the table of faults. -/
theorem onlyKeypadInstructionsReadKeys : Obligations.OnlyKeypadInstructionsReadKeys := by
  refine fun i s keys hi => ⟨fun t => exec_withKeys_next hi keys, fun f hfault => ?_⟩
  rwa [exec_fault_iff, execFault_withKeys, ← exec_fault_iff]

end Sys2Proof.Machine

/-! SUPPORT. What a write of consecutive bytes leaves inside and outside its span, and what the stores and the load at `I`
leave. -/

namespace Sys2Proof.Machine

variable {s t : State} {x z : Nibble} {a c k : Nat} {bs : List Byte}

theorem writeBytes_byteAt_inside (s : State) (a : Nat) (hk : k < bs.length) :
    (s.writeBytes a bs).byteAt (a + k) = bs[k] := by
  rw [writeBytes_byteAt, if_pos (by omega), Nat.add_sub_cancel_left, List.getD_eq_getElem _ _ hk]

theorem writeBytes_byteAt_outside (s : State) (bs : List Byte) (hc : c < a ∨ a + bs.length ≤ c) :
    (s.writeBytes a bs).byteAt c = s.byteAt c := by
  rw [writeBytes_byteAt, if_neg (by omega)]

/-- `store-bcd` leaves the three digits where it stored (spec/48_index_memory.md R192). -/
theorem exec_storeBcd_byteAt (h : exec (.storeBcd x) s = .next t) :
    t.byteAt s.i.toNat = BitVec.ofNat 8 ((s.reg x).toNat / 100) ∧
    t.byteAt (s.i.toNat + 1) = BitVec.ofNat 8 ((s.reg x).toNat / 10 % 10) ∧
    t.byteAt (s.i.toNat + 2) = BitVec.ofNat 8 ((s.reg x).toNat % 10) := by
  obtain ⟨-, rfl⟩ := storeAtI_next_iff.mp h
  have hdigit {k : Nat} (hk : k < 3) := writeBytes_byteAt_inside (bs := bcdDigits (s.reg x)) s s.i.toNat hk
  exact ⟨hdigit (k := 0) (by decide), hdigit (k := 1) (by decide), hdigit (k := 2) (by decide)⟩

theorem exec_storeBcd_byteAt_outside (h : exec (.storeBcd x) s = .next t) (hc : c < s.i.toNat ∨ s.i.toNat + 3 ≤ c) :
    t.byteAt c = s.byteAt c := by
  obtain ⟨-, rfl⟩ := storeAtI_next_iff.mp h
  exact writeBytes_byteAt_outside s (bcdDigits (s.reg x)) hc

theorem exec_storeBlock_byteAt_outside (h : exec (.storeBlock x) s = .next t)
    (hc : c < s.i.toNat ∨ s.i.toNat + x.toNat < c) : t.byteAt c = s.byteAt c := by
  obtain ⟨-, rfl⟩ := exec_storeBlock_next_iff.mp h
  exact writeBytes_byteAt_outside s (s.regBlock x) (by rw [regBlock_length]; omega)

/-- After `load-block Vx` each of `V[0]` to `V[x]` is its byte of memory (spec/48_index_memory.md R194). -/
theorem exec_loadBlock_reg (h : exec (.loadBlock x) s = .next t) (hz : z.toNat ≤ x.toNat) :
    t.reg z = s.byteAt (s.i.toNat + z.toNat) := by
  obtain ⟨-, rfl⟩ := exec_loadBlock_next_iff.mp h
  have hin : z.toNat < x.toNat + 1 := by omega
  simp [setRegBlock_reg, hin]

theorem exec_loadBlock_next (h : s.i.toNat + x.toNat < 4096) : ∃ t, exec (.loadBlock x) s = .next t :=
  exec_next_of_execFault_eq_none (if_neg (Nat.not_le.mpr h))

end Sys2Proof.Machine

/-! The statements of index arithmetic and memory transfer. -/

namespace Sys2Proof.Machine

/-- Settles O30: the load reads the bytes the store left. -/
theorem loadBlockUndoesStoreBlock : Obligations.LoadBlockUndoesStoreBlock := by
  intro x s t u hstore hi hbytes
  obtain ⟨hfit, -⟩ := exec_storeBlock_next_iff.mp hstore
  obtain ⟨w, hload⟩ := exec_loadBlock_next (s := u) (x := x) (by rw [hi]; exact hfit)
  refine ⟨w, hload, fun z hz => ?_⟩
  rw [exec_loadBlock_reg hload hz, hi, hbytes _ (by omega) (by omega), exec_storeBlock_byteAt hstore hz]

/-- Settles O26: the sum of `I` and a byte wraps at 65536, and the address of a glyph is below it. -/
theorem indexArithmeticIsUncheckedAndFlagless : Obligations.IndexArithmeticIsUncheckedAndFlagless := by
  intro x s
  refine ⟨decodeWord_encode (.addToI x), decodeWord_encode (.loadFontAddress x), ?_, ?_⟩
  · have hnext := exec_addToI x s
    refine ⟨_, hnext, ?_, exec_pcAsTable hnext, exec_keepsAllBut hnext⟩
    have hbyte : ((s.reg x).setWidth 16).toNat = (s.reg x).toNat := BitVec.toNat_setWidth_of_le (by decide)
    rw [advance_i, setI_i, BitVec.toNat_add, hbyte]
  · have hnext := exec_loadFontAddress x s
    have haddress : (glyphAddress (s.reg x)).toNat = 5 * (s.reg x).toNat := by
      simp only [glyphAddress, fontGlyphBase, fontGlyphStride, BitVec.toNat_ofNat]; omega
    refine ⟨_, hnext, ?_, haddress, exec_pcAsTable hnext, exec_keepsAllBut hnext⟩
    rw [fontGlyphBase, fontGlyphStride, Nat.zero_add]; exact haddress

/-- Settles O27: the bytes stored, each digit below 10, or the entry in the table of faults. -/
theorem storeBcdWritesThreeDigits : Obligations.StoreBcdWritesThreeDigits := by
  intro x s
  refine ⟨decodeWord_encode (.storeBcd x), fun hin => ?_, fun hout => exec_fault_iff.mpr (if_pos hout)⟩
  obtain ⟨t, hnext⟩ : ∃ t, exec (.storeBcd x) s = .next t :=
    exec_next_of_execFault_eq_none (if_neg (Nat.not_le.mpr hin))
  obtain ⟨hhundreds, htens, hones⟩ := exec_storeBcd_byteAt hnext
  refine ⟨t, hnext, ?_, ?_, ?_, fun a ha => exec_storeBcd_byteAt_outside hnext (by omega), exec_pcAsTable hnext,
    exec_keepsAllBut hnext⟩
  · rw [hhundreds, BitVec.toNat_ofNat]; exact Nat.mod_eq_of_lt (by omega)
  · rw [htens, BitVec.toNat_ofNat]; exact Nat.mod_eq_of_lt (by omega)
  · rw [hones, BitVec.toNat_ofNat]; exact Nat.mod_eq_of_lt (by omega)

/-- Settles O28: the block of registers stored, or the entry in the table of faults. -/
theorem storeBlockWritesV0ToVx : Obligations.StoreBlockWritesV0ToVx := by
  intro x s
  refine ⟨decodeWord_encode (.storeBlock x), fun hin => ?_, fun hout => exec_fault_iff.mpr (if_pos hout)⟩
  obtain ⟨t, hnext⟩ : ∃ t, exec (.storeBlock x) s = .next t := ⟨_, exec_storeBlock_next_iff.mpr ⟨hin, rfl⟩⟩
  exact ⟨t, hnext, fun z => exec_storeBlock_byteAt hnext, fun a => exec_storeBlock_byteAt_outside hnext,
    exec_pcAsTable hnext, exec_keepsAllBut hnext⟩

/-- Settles O29: the bytes loaded, no register above `x` written, or the entry in the table of faults. -/
theorem loadBlockReadsV0ToVx : Obligations.LoadBlockReadsV0ToVx := by
  intro x s
  refine ⟨decodeWord_encode (.loadBlock x), fun hin => ?_, fun hout => exec_fault_iff.mpr (if_pos hout)⟩
  obtain ⟨t, hnext⟩ := exec_loadBlock_next hin
  refine ⟨t, hnext, fun z => exec_loadBlock_reg hnext, fun z hz => ?_, exec_pcAsTable hnext, exec_keepsAllBut hnext⟩
  exact exec_reg_of_not_written hnext (decide_eq_false (Nat.not_le.mpr hz)) fun _ => rfl

end Sys2Proof.Machine

/-! SUPPORT. What the host's operations leave: memory after reset, a loaded image, the timers after ticks. -/

namespace Sys2Proof.Machine

variable {s : State}

/-- FONT_IMAGE ends inside the reserved region, so memory that lists no cell reads as the image padded with zeros
(spec/10_state.md R39). -/
theorem memDefault_of_fontImageFits {image : List Byte} (h : fontImageFits image = true) (a : Nat) :
    memDefault image a = image.getD a 0#8 := by
  have hlen : image.length ≤ Config.reservedSize := of_decide_eq_true h
  unfold memDefault
  split
  · rfl
  · exact (List.getD_eq_default _ _ (by omega)).symm

theorem resetOp_byteAt (h : fontImageFits s.fontImage = true) (a : Nat) :
    s.resetOp.byteAt a = s.fontImage.getD a 0#8 :=
  memDefault_of_fontImageFits h a

theorem tickTimers_keepsAllBut (s : State) : keepsAllBut [.delayTimer, .soundTimer] s s.tickTimers := by
  rw [keepsAllBut_iff]; simp [State.tickTimers]

theorem setKeyAt_keepsAllBut (s : State) (k : Nibble) (pressed : Bool) :
    keepsAllBut [.keys] s (s.setKeyAt k pressed) := by
  rw [keepsAllBut_iff]; simp

theorem keepsAllBut_refl (changed : List Part) (s : State) : keepsAllBut changed s s := by
  rw [keepsAllBut_iff]; simp

/-- One tick after another: each takes one from a timer that is not 0 (spec/60_exceptions.md R241). -/
theorem runSchedule_ticks (n : Nat) (s : State) : ∃ t, s.runSchedule (List.replicate n .tickTimers) = .ok t ∧
    t.dt.toNat = s.dt.toNat - n ∧ t.st.toNat = s.st.toNat - n ∧ t.pc = s.pc ∧
    keepsAllBut [.delayTimer, .soundTimer] s t := by
  induction n generalizing s with
  | zero => exact ⟨s, rfl, rfl, rfl, rfl, keepsAllBut_refl _ s⟩
  | succ n ih =>
    obtain ⟨t, hrun, hdt, hst, hpc, hframe⟩ := ih s.tickTimers
    have hdt1 : s.tickTimers.dt.toNat = s.dt.toNat - 1 := countDown_toNat s.dt
    have hst1 : s.tickTimers.st.toNat = s.st.toNat - 1 := countDown_toNat s.st
    exact ⟨t, hrun, by omega, by omega, hpc, keepsAllBut_trans (tickTimers_keepsAllBut s) hframe⟩

end Sys2Proof.Machine

/-! The statements of the host's operations. -/

namespace Sys2Proof.Machine

/-- Settles O55: a tick returns Ok, and the ticks counted by induction. -/
theorem ticksCountDownAndStopAtZero : Obligations.TicksCountDownAndStopAtZero :=
  fun n s => ⟨rfl, runSchedule_ticks n s⟩

/-- Settles O54: the one check, and memory read inside and outside the image. -/
theorem loadImageCopiesOrRefusesWhole : Obligations.LoadImageCopiesOrRefusesWhole := by
  intro bytes base s
  rcases loadImage_cases bytes base s with ⟨hfit, e⟩ | ⟨hout, e⟩
  · exact ⟨fun h => absurd hfit (Nat.not_le.mpr h), fun _ => ⟨_, e, fun k hk => writeBytes_byteAt_inside s base hk,
      fun a ha => writeBytes_byteAt_outside s bytes ha, rfl, writeBytes_keepsAllBut_memory s base bytes⟩⟩
  · exact ⟨fun _ => e, fun h => absurd h (Nat.not_le.mpr hout)⟩

/-- Settles O56: one key written, and each accessor hands out the state's own vector. -/
theorem keysAreSetAndStateIsReadFromOutside : Obligations.KeysAreSetAndStateIsReadFromOutside := by
  intro s
  refine ⟨fun k pressed => ⟨_, rfl, ?_, fun j hj => ?_, rfl, setKeyAt_keepsAllBut s k pressed⟩, ?_, ?_, ?_⟩
  · exact (setKeyAt_keyAt ..).trans (if_pos rfl)
  · exact (setKeyAt_keyAt ..).trans (if_neg hj)
  · exact ⟨_, rfl, fun _ _ _ _ => rfl⟩
  · exact ⟨_, rfl, fun z => Vector.getElem?_eq_getElem z.isLt, rfl, rfl, rfl, rfl, rfl⟩
  · exact ⟨_, rfl, fun k => Vector.getElem?_eq_getElem k.isLt⟩

/-- Settles O53: every register file is a constant vector, memory lists no cell, and the keys are those before. -/
theorem resetOperationKeepsOnlyTheKeys : Obligations.ResetOperationKeepsOnlyTheKeys := by
  intro s hfits
  obtain ⟨hreg, hi, hpc, hsp, hstack, hdt, hst, hpixel, -⟩ := resetStateIsAsTheTableSays
  refine ⟨rfl, hreg, hi, hpc, hsp, hstack, hdt, hst, hpixel, fun _ => rfl, fun a h => ?_, fun a h => ?_, rfl⟩
  · exact (resetOp_byteAt hfits a).trans (List.getD_eq_getElem _ _ h)
  · exact (resetOp_byteAt hfits a).trans (List.getD_eq_default _ _ h)

end Sys2Proof.Machine
